-- ==== Sys2Proof/Word.lean ====
section
/-! DEFINITION. Sys2Proof/Word.lean: the bit-vector widths every rule uses (spec 00_scope R8; 30_encoding R71, R73). -/

namespace Sys2Proof

/-- An 8-bit value, bit 7 most significant (R8). -/
abbrev Byte := BitVec 8

/-- A 32-bit pattern, with no sign and no numeric type of its own (R8). -/
abbrev Word32 := BitVec 32

/-- A command word `cmd[98:0]` (R71). -/
abbrev CmdWord := BitVec 99

/-- A response word `rsp[90:0]` (R73). -/
abbrev RspWord := BitVec 91

/-- The 88 bits of the `data` and `rdata` fields: eleven byte lanes (R71, R73). -/
abbrev Lanes := BitVec 88

end Sys2Proof
end

