-- ==== Sys2Proof/Machine/Operands.lean ====
section
/-! DEFINITION. Sys2Proof/Machine/Operands.lean: the constants of the Frame (00_scope R5), the byte order of the
two 32-bit fields (00_scope R12; 20_memory R45) and the byte lanes of the `data` and `rdata` fields (30_encoding R71, R73). -/

namespace Sys2Proof.Machine

/-- `FRAME_LEN` (R5). -/
abbrev frameLen : Nat := 11

/-- `START`, the start marker at Frame offset 0 (R5). -/
abbrev startMarker : Byte := 0x55#8

/-- `END`, the end marker at Frame offset 10 (R5). -/
abbrev endMarker : Byte := 0xAA#8

/-- `le32(v)`: least significant byte first (R12). -/
def le32 (v : Word32) : List Byte :=
  [v.extractLsb' 0 8, v.extractLsb' 8 8, v.extractLsb' 16 8, v.extractLsb' 24 8]

/-- `unle32([s0, s1, s2, s3])`: the concatenation with `s3` most significant (R12). -/
def unle32 (s0 s1 s2 s3 : Byte) : Word32 := s3 ++ s2 ++ s1 ++ s0

/-- Byte lane `i`: bits `8i+7 .. 8i` (R71, R73). -/
def lane (x : Lanes) (i : Nat) : Byte := x.extractLsb' (8 * i) 8

/-- The first `n` byte lanes, lane 0 first (R72). -/
def lanes (x : Lanes) (n : Nat) : List Byte := (List.range n).map (lane x)

/-- The 88 bits whose lane `i` is byte `i` of the sequence, the lanes beyond it zero (R71, R75). -/
def packLanes : List Byte → Lanes
  | [] => 0#88
  | b :: rest => (packLanes rest <<< 8) ||| b.setWidth 88

end Sys2Proof.Machine
end

