-- ==== Sys2Proof/Syntax.lean ====
section
/-! DEFINITION. Sys2Proof/Syntax.lean: the five operations of the opcode table (30_encoding R70), one constructor a row. -/

namespace Sys2Proof

/-- The operations as structured values. Ignored bits of a command word have no place here
(93_implementation_defined U3: "A model that takes structured operations has no such bits"). -/
inductive Instr where
  /-- `CKSUM b0 .. b8`: the bytes to fold, nine of them (R90, format K). -/
  | cksum (bytes : List Byte)
  /-- `ENC D=.. L=..`: the patterns of `distance_cm` and `light_level` (R101, format E). -/
  | enc (d l : Word32)
  /-- `DEC b0 .. b(n-1)`: the stated length `n` and the first `min(n, 11)` bytes, the ones presented
  at the port (R104, R79, format D). -/
  | dec (len : BitVec 8) (shown : List Byte)
  /-- `FEED b`: the next byte of the stream (R122, format F). -/
  | feed (b : Byte)
  /-- `CLEAR` (R130, format N). -/
  | clear
  deriving DecidableEq, Repr

end Sys2Proof
end

