-- ==== Sys2Proof/WellFormed.lean ====
section
/-! DEFINITION. Sys2Proof/WellFormed.lean: which operands a command word can hold (30_encoding R72, R79). -/

namespace Sys2Proof

/-- The operand shapes of R72: `CKSUM` has exactly nine bytes; `DEC` shows exactly `min(n, 11)` bytes of
its `n`-byte operand. -/
def WellFormed : Instr → Bool
  | .cksum bytes => bytes.length == 9
  | .enc _ _ => true
  | .dec len shown => shown.length == min len.toNat 11
  | .feed _ => true
  | .clear => true

end Sys2Proof
end

