-- ==== Sys2Proof/Decode.lean ====
section
/-! DEFINITION. Sys2Proof/Decode.lean: the command word's fields, the decoder and the encoder
(30_encoding R70 to R72, R76, R79; opcode_table.json). -/

namespace Sys2Proof

open Sys2Proof.Machine

/-- Why a command word is no operation. -/
inductive DecodeError where
  /-- Opcodes `0b101`, `0b110`, `0b111` have no meaning (R76). -/
  | reservedOpcode (op : BitVec 3)
  deriving DecidableEq, Repr

/-- `op = cmd[2:0]` (R71). -/
def cmdOp (w : CmdWord) : BitVec 3 := w.extractLsb' 0 3

/-- `len = cmd[10:3]` (R71). -/
def cmdLen (w : CmdWord) : BitVec 8 := w.extractLsb' 3 8

/-- `data = cmd[98:11]` (R71). -/
def cmdData (w : CmdWord) : Lanes := w.extractLsb' 11 88

/-- The command word with these three fields (R71). -/
def cmdWord (op : BitVec 3) (len : BitVec 8) (data : Lanes) : CmdWord := data ++ len ++ op

/-- The opcode of each operation (R70). -/
def opcodeOf : Instr → BitVec 3
  | .cksum _ => 0b000#3
  | .enc _ _ => 0b001#3
  | .dec _ _ => 0b010#3
  | .feed _ => 0b011#3
  | .clear => 0b100#3

/-- The 3-bit match of the opcode table (R80), each format taking the fields R72 gives it.
Reserved opcodes are rejected by name (R76). -/
def decode (w : CmdWord) : Except DecodeError Instr :=
  if cmdOp w = 0b000#3 then .ok (.cksum (lanes (cmdData w) 9))
  else if cmdOp w = 0b001#3 then .ok (.enc ((cmdData w).extractLsb' 0 32) ((cmdData w).extractLsb' 32 32))
  else if cmdOp w = 0b010#3 then .ok (.dec (cmdLen w) (lanes (cmdData w) (min (cmdLen w).toNat 11)))
  else if cmdOp w = 0b011#3 then .ok (.feed (lane (cmdData w) 0))
  else if cmdOp w = 0b100#3 then .ok .clear
  else .error (.reservedOpcode (cmdOp w))

/-- The `data` field of each format, its ignored lanes zero (R72, R82). -/
def operandData : Instr → Lanes
  | .cksum bytes => packLanes bytes
  | .enc d l => packLanes (le32 d ++ le32 l)
  | .dec _ shown => packLanes shown
  | .feed b => packLanes [b]
  | .clear => 0#88

/-- The `len` field of each format: `DEC` alone uses it (R72). -/
def operandLen : Instr → BitVec 8
  | .dec len _ => len
  | _ => 0#8

/-- The command word of an operation with its ignored fields zero (R82). -/
def encode (i : Instr) : CmdWord := cmdWord (opcodeOf i) (operandLen i) (operandData i)

/-- The command word whose bits are `w`, of which a table row gives the low `nbits` (the bits above are 0).
The port has 99 wires: what lies above bit 98 has nowhere to go (log entry 10). -/
def tableWord (nbits w : Nat) : CmdWord := BitVec.ofNat 99 (w % 2 ^ nbits)

/-- What the decoder reads from an opcode-table word. -/
def decodeTableWord (nbits w : Nat) : Option Instr := (decode (tableWord nbits w)).toOption

end Sys2Proof
end

