-- ==== Sys2Proof/Config.lean ====
section
/-! DEFINITION. Sys2Proof/Config.lean: the one parameter the spec leaves to the implementation (00_scope R6; 92_eei_decisions D9). -/

namespace Sys2Proof

/-- By how much the strap exceeds its least legal value: a free value, nothing constrains it (log entry 4). -/
opaque Config.accCapSpare : Nat

/-- `ACC_CAP`, the capacity of the accumulator: any natural number `>= 11` (R6).
A value below 11 is outside the spec (93_implementation_defined U2) and cannot be written in this form. -/
def Config.accCap : Nat := Config.accCapSpare + 11

theorem Config.eleven_le_accCap : 11 ≤ Config.accCap := Nat.le_add_left 11 Config.accCapSpare

end Sys2Proof
end

