-- ==== Sys2Proof/Machine/State.lean ====
section
/-! DEFINITION. Sys2Proof/Machine/State.lean: the result types (00_scope R8), the state (10_state R20, R32), the
reset state, and the reasons a step can stop. -/

namespace Sys2Proof.Machine

/-- A Reading, held as two bit patterns (R8). -/
structure Reading where
  /-- `D`, the pattern of `distance_cm`. -/
  d : Word32
  /-- `L`, the pattern of `light_level`. -/
  l : Word32
  deriving DecidableEq, Repr

/-- The error kinds (60_exceptions R150). `transportClosed` is listed by the source and produced by no
operation (R155; 93_implementation_defined U4). -/
inductive FrameError where
  | malformedLength | badStartMarker | badEndMarker | checksumMismatch | transportClosed
  deriving DecidableEq, Repr

/-- `Result` of R8: what `DEC` returns. -/
inductive DecResult where
  | ok (r : Reading)
  | err (e : FrameError)
  deriving DecidableEq, Repr

/-- `Event` of R8: what one `FEED` produces (42_receiver R121). -/
inductive Event where
  | pending
  | emit (r : Reading)
  | drop (e : FrameError)
  deriving DecidableEq, Repr

/-- The result of one operation (00_scope R15), from which Machine/Flags.lean forms the response word of R73 to R75. -/
inductive Response where
  /-- `CKSUM`: the checksum byte. -/
  | cksum (c : Byte)
  /-- `ENC`: the eleven bytes of the Frame. -/
  | enc (frame : List Byte)
  /-- `DEC`: a Reading or an error. -/
  | dec (r : DecResult)
  /-- `FEED`: an event. -/
  | feed (e : Event)
  /-- `CLEAR`: done. -/
  | clear
  deriving DecidableEq, Repr

/-- The block's only store (20_memory R40): bytes by offset from the head, offset `i` at index `i`, the oldest first.
A list of bytes is its own canonical form (log entry 6). -/
abbrev Memory := List Byte

/-- The form the store has between operations: at most ten bytes (10_state R23). -/
def Memory.wf (m : Memory) : Bool := decide (m.length ≤ 10)

/-- `acc` is the whole architectural state (10_state R20). The other two fields are the model's own record of the block's
ports, which the spec counts as inputs and outputs, not as state of the block (10_state R30; log entries 1 and 2). -/
structure State where
  /-- `ACC`: the bytes fed and not yet consumed or discarded, the head first (R20). -/
  acc : Memory
  /-- The command words that wait at the command port, in the order in which it accepts them (20_memory R52). -/
  commands : List CmdWord
  /-- The responses given so far, one per operation, in the order of issue (30_encoding R73; 92_eei_decisions D5). -/
  responses : List Response
  deriving DecidableEq, Repr

/-- The machine after reset: an empty accumulator (10_state R32; 70_reset_and_hazards R170), no command waiting and no
response pending (R32). -/
def State.reset : State := { acc := [], commands := [], responses := [] }

/-- Why the machine could stop with a fault. -/
inductive Fault where
  /-- A read of `n` bytes at offset `addr` that runs past `ACC_LEN`, where 20_memory R41 gives `MemRead` no meaning.
  Raised by `memRead`; SAFE: no operation reaches it from any state, since R41's reads are made only with
  `ACC_LEN >= 11` (log entry 6). -/
  | accRange (addr n : Nat)
  deriving DecidableEq, Repr

/-- Why the machine could give an instruction no meaning. -/
inductive Refusal where
  /-- An operation of the table without a meaning: raised by an arm of `exec`; SAFE. No arm raises it now. -/
  | notModelled (mnemonic : String)
  /-- A command word with a reserved opcode, which the spec gives no meaning and a model refuses (30_encoding R76;
  93_implementation_defined U1): raised by `step`; SAFE: nothing can be proved of what follows (log entry 5). -/
  | reservedOpcode (op : BitVec 3)
  deriving DecidableEq, Repr

end Sys2Proof.Machine
end

