-- ==== Sys2Proof/Machine/Ops.lean ====
section
/-! DEFINITION. Sys2Proof/Machine/Ops.lean: the primitives over the accumulator (20_memory R41 to R44), the status output
(10_state R21, R29), reset as the host asserts it (70_reset_and_hazards R171), and the one way a result leaves the block.

The spec has no exception entry and no return from one (60_exceptions R156, R160): an error is a value of the ordinary
response, so `respond` is the shared operation that delivers results and errors alike. -/

namespace Sys2Proof.Machine

/-- `ACC_LEN` (10_state R21). -/
def accLen (s : State) : Nat := s.acc.length

/-- The status output `ACC_LEN`, which shows 0 to 10 between operations (10_state R29). DESIGN CHOICE: of the two widths R29
offers, 4 bits and, where the length 11 inside a `FEED` is shown, 5 bits, the model takes 4: an operation is one step, so
only the lengths between operations are seen (log entry 16). -/
def accLenOut (s : State) : BitVec 4 := BitVec.ofNat 4 (accLen s)

/-- `MemRead(addr, n)`: the bytes at offsets `addr .. addr+n-1`, defined when `addr + n <= ACC_LEN` (R41). -/
def memRead (m : Memory) (addr n : Nat) : Except Fault (List Byte) :=
  if addr + n ≤ m.length then .ok ((m.drop addr).take n) else .error (.accRange addr n)

/-- `AccDrop(n)` (R43). -/
def accDrop (n : Nat) (m : Memory) : Memory := m.drop n

/-- `AccPush(b)` on an accumulator of capacity `cap`: a full one first loses its oldest byte (R42). -/
def accPush (cap : Nat) (b : Byte) (m : Memory) : Memory :=
  if m.length = cap then accDrop 1 m ++ [b] else m ++ [b]

/-- `AccClear()` (R44). -/
def accClear : Memory := []

/-- Reset between two operations: the accumulator alone changes (70_reset_and_hazards R170, R171). -/
def resetBlock (s : State) : State := { s with acc := accClear }

/-- Delivers the response of the operation that completes (30_encoding R73). Errors take the same way as successes:
nothing is saved, masked or vectored (60_exceptions R156). -/
def respond (r : Response) (s : State) : Host.Outcome State Fault Refusal :=
  .next { s with responses := s.responses ++ [r] }

/-- Takes the next command word from the port; `none` when none waits. -/
def takeCommand (s : State) : Option (CmdWord × State) :=
  match s.commands with
  | [] => none
  | w :: rest => some (w, { s with commands := rest })

/-- Presents a command word at the port, ahead of those that wait. -/
def presentCommand (w : CmdWord) (s : State) : State := { s with commands := w :: s.commands }

end Sys2Proof.Machine
end

