-- ==== Sys2Proof/Machine/Checksum.lean ====
section
/-! DEFINITION. Sys2Proof/Machine/Checksum.lean: the XOR checksum validator (40_checksum), operation CKSUM. -/

namespace Sys2Proof.Machine

/-- `xor8(a, b)` (00_scope R11). -/
def xor8 (a b : Byte) : Byte := a ^^^ b

/-- `xorfold(s)`: the fold of `xor8` from `0x00`, first byte first (00_scope R11). -/
def xorfold (s : List Byte) : Byte := s.foldl xor8 0x00#8

/-- CKSUM (R90): reads and writes no state; its result is the fold of its operand. -/
def execCksum (bytes : List Byte) (s : State) : Host.Outcome State Fault Refusal :=
  respond (.cksum (xorfold bytes)) s

end Sys2Proof.Machine
end

