-- ==== Sys2Proof/Machine/Codec.lean ====
section
/-! DEFINITION. Sys2Proof/Machine/Codec.lean: the frame serializer and parser (41_codec), operations ENC and DEC. -/

namespace Sys2Proof.Machine

/-- Frame offsets 0 to 8, the span of the checksum: start marker and payload (30_encoding R60, R64). -/
def frameSpan (d l : Word32) : List Byte := startMarker :: (le32 d ++ le32 l)

/-- The Frame of the Reading `(d, l)` (R101). -/
def serialize (d l : Word32) : List Byte := frameSpan d l ++ [xorfold (frameSpan d l), endMarker]

/-- An eleven-byte sequence with both markers and the right checksum; no other sequence is valid (R103). -/
def validFrame : List Byte → Bool
  | [s0, s1, s2, s3, s4, s5, s6, s7, s8, s9, s10] =>
      s0 == startMarker && s10 == endMarker && s9 == xorfold [s0, s1, s2, s3, s4, s5, s6, s7, s8]
  | _ => false

/-- `DEC` on an operand of any length: the checks in the order length, start marker, end marker, checksum, the first
failure deciding (R104, R105). -/
def parse : List Byte → DecResult
  | [s0, s1, s2, s3, s4, s5, s6, s7, s8, s9, s10] =>
      if s0 ≠ startMarker then .err .badStartMarker
      else if s10 ≠ endMarker then .err .badEndMarker
      else if xorfold [s0, s1, s2, s3, s4, s5, s6, s7, s8] ≠ s9 then .err .checksumMismatch
      else .ok { d := unle32 s1 s2 s3 s4, l := unle32 s5 s6 s7 s8 }
  | _ => .err .malformedLength

/-- `DEC` at the port: the stated length decides the first check, and the bytes shown are looked at only when it is 11
(30_encoding R79). -/
def parseShown (len : BitVec 8) (shown : List Byte) : DecResult :=
  if len.toNat = frameLen then parse shown else .err .malformedLength

/-- ENC (R101): total, no error (R102). -/
def execEnc (d l : Word32) (s : State) : Host.Outcome State Fault Refusal :=
  respond (.enc (serialize d l)) s

/-- DEC (R104): every rejection is a result, not a stop (R106). -/
def execDec (len : BitVec 8) (shown : List Byte) (s : State) : Host.Outcome State Fault Refusal :=
  respond (.dec (parseShown len shown)) s

end Sys2Proof.Machine
end

