-- ==== Sys2Proof/Machine/Receiver.lean ====
section
/-! DEFINITION. Sys2Proof/Machine/Receiver.lean: the frame synchronizer (42_receiver), operations FEED and CLEAR. -/

namespace Sys2Proof.Machine

/-- What a drain iteration makes of the window `w` at the head of `m`: a valid one is emitted and consumed whole, any
other costs the head byte and reports `DEC`'s error (R123 to R126). -/
def judge (w : List Byte) (m : Memory) : Event × Memory :=
  match parse w with
  | .ok r => (.emit r, accDrop frameLen m)
  | .err e => (.drop e, accDrop 1 m)

/-- The loop `while ACC_LEN >= 11` of R122, each pass reading the window `MemRead(0, 11)`; its event is the last pass's.
`fuel` bounds the passes: every pass shortens the accumulator (R140), so its length is fuel enough. -/
def drain : Nat → Event → Memory → Except Fault (Event × Memory)
  | 0, ev, m => .ok (ev, m)
  | fuel + 1, ev, m =>
      if m.length < frameLen then .ok (ev, m)
      else
        match memRead m 0 frameLen with
        | .error f => .error f
        | .ok w => drain fuel (judge w m).1 (judge w m).2

/-- FEED on an accumulator of capacity `cap` (R122): append, drain, report the event. -/
def feedWith (cap : Nat) (b : Byte) (s : State) : Host.Outcome State Fault Refusal :=
  match drain (accPush cap b s.acc).length .pending (accPush cap b s.acc) with
  | .error f => .fault f
  | .ok (ev, m) => respond (.feed ev) { s with acc := m }

/-- FEED (R122), on the capacity the block is built with. -/
def execFeed (b : Byte) (s : State) : Host.Outcome State Fault Refusal := feedWith Config.accCap b s

/-- CLEAR (R130): the held bytes go unjudged and unreported. -/
def execClear (s : State) : Host.Outcome State Fault Refusal := respond .clear { s with acc := accClear }

/-- The phases of the synchronizer, a view of `ACC` and no state (10_state R24). -/
inductive Phase where
  | fill (k : Nat)
  | armed
  | eval
  deriving DecidableEq, Repr

/-- The phase read off an accumulator (10_state R24); `eval` is the transient length 11 (and stands for longer ones,
which no operation leaves). -/
def phase (m : Memory) : Phase :=
  if m.length < 10 then .fill m.length else if m.length = 10 then .armed else .eval

end Sys2Proof.Machine
end

