-- ==== Sys2Proof/Machine/Dispatch.lean ====
section
/-! DEFINITION. Sys2Proof/Machine/Dispatch.lean: one arm per operation, each one call of its meaning. -/

namespace Sys2Proof.Machine

def exec (i : Instr) (s : State) : Host.Outcome State Fault Refusal :=
  match i with
  | .cksum bytes => Sys2Proof.Machine.execCksum bytes s
  | .enc d l => Sys2Proof.Machine.execEnc d l s
  | .dec len shown => Sys2Proof.Machine.execDec len shown s
  | .feed b => Sys2Proof.Machine.execFeed b s
  | .clear => Sys2Proof.Machine.execClear s

end Sys2Proof.Machine
end

