-- ==== Sys2Proof/Machine/Step.lean ====
section
/-! DEFINITION. Sys2Proof/Machine/Step.lean: one step takes the next command word and runs its operation whole
(00_scope R7; 20_memory R52). With no command waiting nothing happens (R7: "nothing happens between operations"). -/

namespace Sys2Proof.Machine

/-- One operation: the command at the port is taken, decoded and executed; a reserved opcode is refused by name
(30_encoding R76). With no command waiting the machine stays as it is (log entry 3). -/
def step (s : State) : Host.Outcome State Fault Refusal :=
  match takeCommand s with
  | none => .next s
  | some (w, t) =>
      match decode w with
      | .error (.reservedOpcode op) => .refused (.reservedOpcode op)
      | .ok i => exec i t

/-- The state whose next step runs the instruction with these bits: the word stands first at the command port. -/
def State.withFetchWord (s : State) (nbits w : Nat) : State := presentCommand (tableWord nbits w) s

end Sys2Proof.Machine
end

