-- ==== Sys2Proof/Machine/Stream.lean ====
section
/-! DEFINITION. Sys2Proof/Machine/Stream.lean: scripts of operations (10_state R27), the pseudo-operations
(30_encoding R83) and the stream function (42_receiver R134). No operation's meaning uses this file: statements about
whole streams are written in its terms. -/

namespace Sys2Proof.Machine

/-- A script issued to one instance, operation by operation (20_memory R52). -/
def issue : List Instr → State → Host.Outcome State Fault Refusal
  | [], s => .next s
  | i :: rest, s =>
      match exec i s with
      | .next t => issue rest t
      | .fault f => .fault f
      | .refused r => .refused r

/-- `FEEDS b0 .. b(n-1)`; nothing when there are no bytes (R83). -/
def feeds (bytes : List Byte) : List Instr := bytes.map .feed

/-- Chunks as the transport hands them over, each one presented by `FEEDS` (42_receiver R131). -/
def feedChunks : List (List Byte) → State → Host.Outcome State Fault Refusal
  | [], s => .next s
  | t :: rest, s =>
      match issue (feeds t) s with
      | .next u => feedChunks rest u
      | .fault f => .fault f
      | .refused r => .refused r

/-- `RECONNECT` (R83). -/
def reconnect : List Instr := [.clear]

/-- `LOOP D=.. L=..`: `ENC`, then the Frame fed back in ascending offset (R83). -/
def loopback (d l : Word32) : List Instr := .enc d l :: feeds (serialize d l)

/-- `VALID s`: true when `DEC s` is `Ok` (R83). -/
def validByDec (s : List Byte) : Bool :=
  match parse s with
  | .ok _ => true
  | .err _ => false

/-- The recursion of R134 with fuel: every step shortens the sequence. -/
def scanFuel : Nat → List Byte → List Event × List Byte
  | 0, q => ([], q)
  | fuel + 1, q =>
      if q.length < frameLen then ([], q)
      else
        match parse (q.take frameLen) with
        | .ok r => (.emit r :: (scanFuel fuel (q.drop frameLen)).1, (scanFuel fuel (q.drop frameLen)).2)
        | .err e => (.drop e :: (scanFuel fuel (q.drop 1)).1, (scanFuel fuel (q.drop 1)).2)

/-- `scan(q)` (R134): the events of a stream and the bytes left unjudged. -/
def scan (q : List Byte) : List Event × List Byte := scanFuel q.length q

end Sys2Proof.Machine
end

