-- ==== Sys2Proof/Machine/Flags.lean ====
section
/-! DEFINITION. Sys2Proof/Machine/Flags.lean: the block has no flags (10_state R28); what an operation reports beside its
data is the `status` field of its response. Status codes (30_encoding R74), `rdata` (R75), the response word (R73). -/

namespace Sys2Proof.Machine

/-- The status codes of the error kinds (R74; 60_exceptions R150). -/
def errorCode : FrameError → BitVec 3
  | .malformedLength => 0b001#3
  | .badStartMarker => 0b010#3
  | .badEndMarker => 0b011#3
  | .checksumMismatch => 0b100#3
  | .transportClosed => 0b101#3

/-- Status `OK` (R74). -/
abbrev statusOk : BitVec 3 := 0b000#3

/-- Status `Pending` (R74). -/
abbrev statusPending : BitVec 3 := 0b111#3

/-- The `status` field of a response (R74, R75). -/
def statusOf : Response → BitVec 3
  | .cksum _ => statusOk
  | .enc _ => statusOk
  | .dec (.ok _) => statusOk
  | .dec (.err e) => errorCode e
  | .feed .pending => statusPending
  | .feed (.emit _) => statusOk
  | .feed (.drop e) => errorCode e
  | .clear => statusOk

/-- The eleven lanes that carry a Reading: `D` in lanes 0 to 3, `L` in lanes 4 to 7, zero above (R75). -/
def readingLanes (r : Reading) : Lanes := packLanes (le32 r.d ++ le32 r.l)

/-- The `rdata` field of a response; zero where the result carries no data (R75). -/
def rdataOf : Response → Lanes
  | .cksum c => packLanes [c]
  | .enc frame => packLanes frame
  | .dec (.ok r) => readingLanes r
  | .dec (.err _) => 0#88
  | .feed .pending => 0#88
  | .feed (.emit r) => readingLanes r
  | .feed (.drop _) => 0#88
  | .clear => 0#88

/-- The response word: `status = rsp[2:0]`, `rdata = rsp[90:3]` (R73). -/
def rspWord (r : Response) : RspWord := rdataOf r ++ statusOf r

end Sys2Proof.Machine
end

