-- ==== Sys2Proof/Safety.lean ====
section
/-! DEFINITION. Sys2Proof/Safety.lean: the invariants of the machine and the bits of a command word that matter, in the
terms the statements use. -/

namespace Sys2Proof.Machine

/-- The quiescent invariant: between operations at most ten bytes are held (10_state R23). -/
def Quiescent (s : State) : Prop := s.acc.length ≤ 10

/-- No response shows a status that the block never produces: `TransportClosed` or the reserved code (30_encoding R77). -/
def StatusesProduced (s : State) : Prop := ∀ r ∈ s.responses, statusOf r ≠ 0b101#3 ∧ statusOf r ≠ 0b110#3

/-- The bits of a command word that its operation looks at (30_encoding R72, R78): the opcode; for `CKSUM` data bytes
0 to 8, for `ENC` bytes 0 to 7, for `FEED` byte 0; for `DEC` the length, and the data only when the length is 11. -/
def usedBits (w : CmdWord) : CmdWord :=
  if cmdOp w = 0b000#3 then cmdWord 0b111#3 0#8 ((BitVec.allOnes 72).setWidth 88)
  else if cmdOp w = 0b001#3 then cmdWord 0b111#3 0#8 ((BitVec.allOnes 64).setWidth 88)
  else if cmdOp w = 0b010#3 then
    cmdWord 0b111#3 (BitVec.allOnes 8) (if cmdLen w = 11#8 then BitVec.allOnes 88 else 0#88)
  else if cmdOp w = 0b011#3 then cmdWord 0b111#3 0#8 ((BitVec.allOnes 8).setWidth 88)
  else cmdWord 0b111#3 0#8 0#88

/-- The sequence with bit `j` of its byte `i` flipped (40_checksum R94). -/
def flipBit (q : List Byte) (i j : Nat) : List Byte := q.modify i (fun b => b ^^^ (1#8 <<< j))

/-- The sequence with its bytes `i` and `j` exchanged (40_checksum R92). -/
def exchange (q : List Byte) (i j : Nat) : List Byte := (q.set i (q.getD j 0#8)).set j (q.getD i 0#8)

/-- An eleven-byte sequence passes the checksum check (40_checksum R97). -/
def passesCheck (q : List Byte) : Prop := xorfold (q.take 9) = q.getD 9 0#8

/-- The operations that reach the accumulator (20_memory R40). -/
def reachesAcc : Instr → Bool
  | .feed _ => true
  | .clear => true
  | _ => false

/-- The responses of those operations. -/
def fromReceiver : Response → Bool
  | .feed _ => true
  | .clear => true
  | _ => false

end Sys2Proof.Machine
end

