-- ==== Sys2Proof/Certificates/Slice0/Obligations.lean ====
section
/-! DEFINITION. Sys2Proof/Certificates/Slice0/Obligations.lean: the statements for the provers, each naming the rules of the
spec it formalises. In all of them a next state is written out whole, so each is also its operation's frame: what the
record does not change stays as it was. -/

open Sys2Proof Sys2Proof.Machine

/-! ### Command words -/

/-- Command words printed in 95_test_vectors part 3, one for each operation, decode to the operations printed beside them. -/
def Obligations.SampleWordsDecode : Prop :=
  decode 0x9620A400002A800#99 = .ok (.cksum [0x55#8, 0x00#8, 0x00#8, 0x48#8, 0x41#8, 0x2C#8, 0x01#8, 0x00#8, 0x00#8]) ∧
  decode 0x9620A40000001#99 = .ok (.enc 0x41480000#32 0x0000012C#32) ∧
  decode 0x55388000009620A400002A85A#99 =
    .ok (.dec 11#8 [0x55#8, 0x00#8, 0x00#8, 0x48#8, 0x41#8, 0x2C#8, 0x01#8, 0x00#8, 0x00#8, 0x71#8, 0xAA#8]) ∧
  decode 0x2#99 = .ok (.dec 0#8 []) ∧
  decode 0x2AFFB#99 = .ok (.feed 0x55#8) ∧
  decode 0x4#99 = .ok .clear

/-- Every well-formed operation is read back from its command word (30_encoding R71, R72, R82). -/
def Obligations.DecodeEncodeRoundTrip : Prop :=
  ∀ i : Instr, WellFormed i = true → decode (encode i) = .ok i

/-- What the decoder reads is well-formed (30_encoding R72, R79). -/
def Obligations.DecodedIsWellFormed : Prop :=
  ∀ (w : CmdWord) (i : Instr), decode w = .ok i → WellFormed i = true

/-- 30_encoding R78: command words that differ only in ignored bits give the same response and the same next state. -/
def Obligations.IgnoredBitsDoNotMatter : Prop :=
  ∀ (s : State) (w w' : CmdWord), w &&& usedBits w = w' &&& usedBits w →
    step (presentCommand w s) = step (presentCommand w' s)

/-- 30_encoding R76: a command word whose opcode is 5, 6 or 7 has no step; the model refuses it by name. -/
def Obligations.ReservedOpcodeRefused : Prop :=
  ∀ (s : State) (w : CmdWord), 5 ≤ (w.extractLsb' 0 3).toNat →
    step (presentCommand w s) = .refused (.reservedOpcode (w.extractLsb' 0 3))

/-! ### Steps, scripts and reset -/

/-- A step takes the first waiting command word and runs the operation it decodes to; around it the step does nothing but
remove the word from those that wait (the command list is the model's own form of the port, log entry 1). -/
def Obligations.StepRunsDecodedOperation : Prop :=
  ∀ (s : State) (w : CmdWord) (rest : List CmdWord) (i : Instr),
    s.commands = w :: rest → decode w = .ok i → step s = exec i { s with commands := rest }

/-- With no command waiting a step changes nothing (the model's reading of 00_scope R7, log entry 3). -/
def Obligations.StepWithoutCommand : Prop :=
  ∀ s : State, s.commands = [] → step s = .next s

/-- Steps over a port that holds the words of a script do what the script does, operation by operation
(20_memory R52; 10_state R27; the command list is the model's own form of the port, log entry 1). -/
def Obligations.PortRunsScript : Prop :=
  ∀ (p : List Instr) (rest : List CmdWord) (s : State), (∀ i ∈ p, WellFormed i = true) →
    s.commands = p.map encode ++ rest →
    Host.Core.run Sys2Proof.core p.length s = issue p { s with commands := rest }

/-- Every operation completes from every state with one response, and no operation looks at or changes the waiting commands
(60_exceptions R156; 41_codec R102, R106; 42_receiver R140; 30_encoding R73). -/
def Obligations.EveryOperationCompletes : Prop :=
  ∀ (i : Instr) (s : State), ∃ r m,
    exec i s = .next { acc := m, commands := s.commands, responses := s.responses ++ [r] }

/-- 70_reset_and_hazards R170: after reset `ACC = []` and `ACC_LEN = 0`; as a reset of a running block too. -/
def Obligations.ResetEmptiesAccumulator : Prop :=
  State.reset.acc = [] ∧ accLen State.reset = 0 ∧ ∀ s : State, (resetBlock s).acc = [] ∧ accLen (resetBlock s) = 0

/-- 70_reset_and_hazards R171: `CLEAR` completes from every state and leaves the accumulator that reset leaves. -/
def Obligations.ResetSameAsClear : Prop :=
  ∀ s : State, ∃ t, exec .clear s = .next t ∧ t.acc = (resetBlock s).acc ∧ t.acc = State.reset.acc ∧ t.acc = []

/-! ### Invariants -/

/-- 10_state R23 (which the spec marks as derived): between operations at most ten bytes are held; every step keeps it. -/
def Obligations.QuiescentInvariant : Prop :=
  ∀ s t : State, Quiescent s → step s = .next t → Quiescent t

/-- 30_encoding R77: no response ever shows `TransportClosed` or the reserved status; every step keeps it. -/
def Obligations.StatusesInvariant : Prop :=
  ∀ s t : State, StatusesProduced s → step s = .next t → StatusesProduced t

/-- 10_state R22: at most `ACC_CAP` bytes are held, after the append inside a `FEED` as well as between operations. -/
def Obligations.CapacityInvariant : Prop :=
  (∀ s t : State, s.acc.length ≤ Config.accCap → step s = .next t → t.acc.length ≤ Config.accCap) ∧
  (∀ (b : Byte) (m : Memory), m.length ≤ Config.accCap → (accPush Config.accCap b m).length ≤ Config.accCap)

/-- The three invariants hold at reset (10_state R32). -/
def Obligations.InvariantsAtReset : Prop :=
  Quiescent State.reset ∧ StatusesProduced State.reset ∧ State.reset.acc.length ≤ Config.accCap

/-- 10_state R29: between operations the status output shows `len(ACC)`. Its width of 4 bits is the model's choice of the two
that the rule offers (log entry 16). -/
def Obligations.StatusOutputShowsLength : Prop :=
  ∀ s : State, Quiescent s → (accLenOut s).toNat = s.acc.length

/-! ### The accumulator's primitives and the byte order -/

/-- 20_memory R42: `AccPush` appends; on a full accumulator the oldest byte is lost first. -/
def Obligations.AccPushRule : Prop :=
  ∀ (cap : Nat) (b : Byte) (m : Memory),
    (m.length = cap → accPush cap b m = m.drop 1 ++ [b]) ∧ (m.length ≠ cap → accPush cap b m = m ++ [b])

/-- 20_memory R41, R43: `MemRead` inside the accumulator is the slice, byte by byte, and outside it faults by name (the
model's choice, log entry 6); `AccDrop` keeps the other bytes in order. -/
def Obligations.ReadAndDropByOffset : Prop :=
  (∀ (m : Memory) (addr n : Nat), addr + n ≤ m.length →
    ∃ w, memRead m addr n = .ok w ∧ w.length = n ∧ ∀ k, k < n → w[k]? = m[addr + k]?) ∧
  (∀ (m : Memory) (addr n : Nat), m.length < addr + n → memRead m addr n = .error (.accRange addr n)) ∧
  (∀ (m : Memory) (n k : Nat), (accDrop n m)[k]? = m[n + k]?)

/-- 00_scope R12 (which the spec marks as derived): `le32` and `unle32` are inverse, and `unle32` is the little-endian sum. -/
def Obligations.LittleEndianFields : Prop :=
  (∀ v : Word32, le32 v = [v.extractLsb' 0 8, v.extractLsb' 8 8, v.extractLsb' 16 8, v.extractLsb' 24 8]) ∧
  (∀ v : Word32,
    unle32 (v.extractLsb' 0 8) (v.extractLsb' 8 8) (v.extractLsb' 16 8) (v.extractLsb' 24 8) = v) ∧
  (∀ s0 s1 s2 s3 : Byte, le32 (unle32 s0 s1 s2 s3) = [s0, s1, s2, s3]) ∧
  (∀ s0 s1 s2 s3 : Byte,
    (unle32 s0 s1 s2 s3).toNat = s0.toNat + 256 * s1.toNat + 65536 * s2.toNat + 16777216 * s3.toNat)

/-! ### CKSUM -/

/-- 40_checksum R90: `CKSUM` from any command word with its opcode (`len` and data bytes 9, 10 ignored), its result and the
whole next state, and its response word. -/
def Obligations.CksumResult : Prop :=
  ∀ (s : State) (hi : BitVec 16) (len : BitVec 8) (b0 b1 b2 b3 b4 b5 b6 b7 b8 : Byte),
    decode (hi ++ b8 ++ b7 ++ b6 ++ b5 ++ b4 ++ b3 ++ b2 ++ b1 ++ b0 ++ len ++ 0b000#3) =
      .ok (.cksum [b0, b1, b2, b3, b4, b5, b6, b7, b8]) ∧
    exec (.cksum [b0, b1, b2, b3, b4, b5, b6, b7, b8]) s =
      .next { s with responses :=
        s.responses ++ [.cksum (b0 ^^^ b1 ^^^ b2 ^^^ b3 ^^^ b4 ^^^ b5 ^^^ b6 ^^^ b7 ^^^ b8)] } ∧
    ∀ c : Byte, rspWord (.cksum c) = c.setWidth 91 <<< 3

/-- 40_checksum R92: the order of the bytes does not matter to `CKSUM`. -/
def Obligations.CksumOrderIndependent : Prop :=
  ∀ (s : State) (b b' : List Byte), b.Perm b' →
    exec (.cksum b) s = .next { s with responses := s.responses ++ [.cksum (xorfold b')] }

/-- 40_checksum R93 (which the spec marks as derived): `xor8` is its own inverse, and a sequence with its fold appended folds to zero. -/
def Obligations.ChecksumSelfInverse : Prop :=
  (∀ a : Byte, xor8 a a = 0x00#8) ∧ (∀ a : Byte, xor8 a 0x00#8 = a) ∧
  (∀ b : List Byte, xorfold (b ++ [xorfold b]) = 0x00#8)

/-- 40_checksum R94 (which the spec marks as derived): one flipped bit flips that bit of the fold, so in a valid Frame a flip in bytes 1 to 9 makes the
checksum check fail. -/
def Obligations.SingleBitSensitivity : Prop :=
  (∀ (b : List Byte) (i j : Nat), i < b.length → j < 8 →
    xorfold (flipBit b i j) = xor8 (xorfold b) (1#8 <<< j)) ∧
  (∀ (f : List Byte) (i j : Nat), validFrame f = true → 1 ≤ i → i ≤ 9 → j < 8 → ¬ passesCheck (flipBit f i j))

/-- 40_checksum R95 (which the spec marks as derived): a corruption of bytes 0 to 9 passes the check exactly when its changes fold to zero, that is when every
bit position is flipped an even number of times. -/
def Obligations.UndetectedCorruptions : Prop :=
  ∀ q δ : List Byte, q.length = 10 → δ.length = 10 → passesCheck q →
    (passesCheck (List.zipWith xor8 q δ) ↔ xorfold δ = 0x00#8) ∧
    (xorfold δ = 0x00#8 ↔ ∀ j, j < 8 → (δ.countP fun c => c.getLsbD j) % 2 = 0)

/-- 40_checksum R97 (which the spec marks as derived): the check and its equivalent forms. -/
def Obligations.ChecksumCheckForms : Prop :=
  ∀ s0 s1 s2 s3 s4 s5 s6 s7 s8 s9 : Byte,
    (xorfold [s0, s1, s2, s3, s4, s5, s6, s7, s8] = s9 ↔
      xorfold [s0, s1, s2, s3, s4, s5, s6, s7, s8, s9] = 0x00#8) ∧
    (s0 = 0x55#8 →
      (xorfold [s0, s1, s2, s3, s4, s5, s6, s7, s8] = s9 ↔ xor8 0x55#8 (xorfold [s1, s2, s3, s4, s5, s6, s7, s8]) = s9) ∧
      (xorfold [s0, s1, s2, s3, s4, s5, s6, s7, s8] = s9 ↔ xorfold [s1, s2, s3, s4, s5, s6, s7, s8, s9] = 0x55#8))

/-! ### ENC -/

/-- 41_codec R101: `ENC` from any command word with its opcode, the Frame byte by byte, the whole next state and the
response word of a Frame. -/
def Obligations.EncResult : Prop :=
  ∀ (s : State) (hi : BitVec 24) (len : BitVec 8) (d l : Word32) (f0 f1 f2 f3 f4 f5 f6 f7 f8 f9 f10 : Byte),
    decode (hi ++ l ++ d ++ len ++ 0b001#3) = .ok (.enc d l) ∧
    exec (.enc d l) s =
      .next { s with responses := s.responses ++ [.enc
        [0x55#8, d.extractLsb' 0 8, d.extractLsb' 8 8, d.extractLsb' 16 8, d.extractLsb' 24 8,
          l.extractLsb' 0 8, l.extractLsb' 8 8, l.extractLsb' 16 8, l.extractLsb' 24 8,
          0x55#8 ^^^ d.extractLsb' 0 8 ^^^ d.extractLsb' 8 8 ^^^ d.extractLsb' 16 8 ^^^ d.extractLsb' 24 8 ^^^
            l.extractLsb' 0 8 ^^^ l.extractLsb' 8 8 ^^^ l.extractLsb' 16 8 ^^^ l.extractLsb' 24 8,
          0xAA#8]] } ∧
    rspWord (.enc [f0, f1, f2, f3, f4, f5, f6, f7, f8, f9, f10]) =
      f10 ++ f9 ++ f8 ++ f7 ++ f6 ++ f5 ++ f4 ++ f3 ++ f2 ++ f1 ++ f0 ++ 0b000#3

/-- 41_codec R116 (which the spec marks as derived): every result of `ENC` is a valid Frame, and distinct Readings give distinct Frames. -/
def Obligations.EncFramesValidAndDistinct : Prop :=
  (∀ (s : State) (d l : Word32), ∃ f,
    exec (.enc d l) s = .next { s with responses := s.responses ++ [.enc f] } ∧
    f.length = 11 ∧ f[0]? = some 0x55#8 ∧ f[10]? = some 0xAA#8 ∧ f[9]? = some (xorfold (f.take 9))) ∧
  (∀ (s : State) (d l d' l' : Word32), exec (.enc d l) s = exec (.enc d' l') s → d = d' ∧ l = l')

/-- 40_checksum R96 (which the spec marks as derived): the checksum of a Frame from its payload; the two payload folds that give a marker value. -/
def Obligations.ChecksumFromPayload : Prop :=
  ∀ f : List Byte, validFrame f = true →
    f[9]? = some (xor8 0x55#8 (xorfold ((f.drop 1).take 8))) ∧
    (xorfold ((f.drop 1).take 8) = 0x00#8 → f[9]? = some 0x55#8) ∧
    (xorfold ((f.drop 1).take 8) = 0xFF#8 → f[9]? = some 0xAA#8)

/-! ### DEC -/

/-- 41_codec R104: `DEC` from any command word with its opcode, its checks in order, the Reading and the whole next state;
on an operand of any other length `MalformedLength`, at the port and of the operation itself. -/
def Obligations.DecResult : Prop :=
  (∀ (n : BitVec 8) (b0 b1 b2 b3 b4 b5 b6 b7 b8 b9 b10 : Byte),
    decode (b10 ++ b9 ++ b8 ++ b7 ++ b6 ++ b5 ++ b4 ++ b3 ++ b2 ++ b1 ++ b0 ++ n ++ 0b010#3) =
      .ok (.dec n ([b0, b1, b2, b3, b4, b5, b6, b7, b8, b9, b10].take n.toNat))) ∧
  (∀ (s : State) (b0 b1 b2 b3 b4 b5 b6 b7 b8 b9 b10 : Byte),
    exec (.dec 11#8 [b0, b1, b2, b3, b4, b5, b6, b7, b8, b9, b10]) s =
      .next { s with responses := s.responses ++ [.dec (
        if b0 ≠ 0x55#8 then .err .badStartMarker
        else if b10 ≠ 0xAA#8 then .err .badEndMarker
        else if b0 ^^^ b1 ^^^ b2 ^^^ b3 ^^^ b4 ^^^ b5 ^^^ b6 ^^^ b7 ^^^ b8 ≠ b9 then .err .checksumMismatch
        else .ok { d := b4 ++ b3 ++ b2 ++ b1, l := b8 ++ b7 ++ b6 ++ b5 })] }) ∧
  (∀ (s : State) (n : BitVec 8) (shown : List Byte), n ≠ 11#8 →
    exec (.dec n shown) s = .next { s with responses := s.responses ++ [.dec (.err .malformedLength)] }) ∧
  (∀ q : List Byte, q.length ≠ 11 → parse q = .err .malformedLength)

/-- 30_encoding R79: of an operand of up to 255 bytes the port presents the length and the first eleven bytes, and `DEC`
answers as the operation on the whole sequence; a longer one cannot be presented, and its answer is `MalformedLength`. -/
def Obligations.DecPortAgreesWithWholeOperand : Prop :=
  (∀ (s : State) (q : List Byte), q.length ≤ 255 →
    exec (.dec (BitVec.ofNat 8 q.length) (q.take 11)) s =
      .next { s with responses := s.responses ++ [.dec (parse q)] }) ∧
  (∀ q : List Byte, 255 < q.length → parse q = .err .malformedLength)

/-- 41_codec R103: `DEC` returns `Ok` exactly on the valid sequences. -/
def Obligations.OkExactlyOnValid : Prop :=
  ∀ q : List Byte,
    ((∃ r, parse q = .ok r) ↔
      (q.length = 11 ∧ q[0]? = some 0x55#8 ∧ q[10]? = some 0xAA#8 ∧ q[9]? = some (xorfold (q.take 9)))) ∧
    (validFrame q = true ↔ ∃ r, parse q = .ok r) ∧ (validByDec q = validFrame q)

/-- 41_codec R106: `DEC` completes on every operand with one of five results, at the port and on sequences of any length. -/
def Obligations.DecTotalFiveResults : Prop :=
  (∀ (s : State) (n : BitVec 8) (shown : List Byte), ∃ x,
    exec (.dec n shown) s = .next { s with responses := s.responses ++ [.dec x] } ∧
    ((∃ r, x = .ok r) ∨ x = .err .malformedLength ∨ x = .err .badStartMarker ∨ x = .err .badEndMarker ∨
      x = .err .checksumMismatch)) ∧
  (∀ q : List Byte, (∃ r, parse q = .ok r) ∨ parse q = .err .malformedLength ∨ parse q = .err .badStartMarker ∨
    parse q = .err .badEndMarker ∨ parse q = .err .checksumMismatch)

/-- 41_codec R107: the Reading is assembled from the payload bytes only, and no Reading is rejected for its values. -/
def Obligations.ReadingFromPayload : Prop :=
  (∀ (b0 b1 b2 b3 b4 b5 b6 b7 b8 b9 b10 : Byte) (r : Reading),
    parse [b0, b1, b2, b3, b4, b5, b6, b7, b8, b9, b10] = .ok r →
    r.d = (b1.setWidth 32 ||| b2.setWidth 32 <<< 8 ||| b3.setWidth 32 <<< 16 ||| b4.setWidth 32 <<< 24) ∧
    r.l = (b5.setWidth 32 ||| b6.setWidth 32 <<< 8 ||| b7.setWidth 32 <<< 16 ||| b8.setWidth 32 <<< 24)) ∧
  (∀ r : Reading, ∃ q, parse q = .ok r)

/-- 41_codec R110 (which the spec marks as derived): for all 2^64 Readings, `DEC` of what `ENC` gives is the Reading, bit for bit. -/
def Obligations.EncDecRoundTrip : Prop :=
  ∀ (s t : State) (d l : Word32), ∃ f,
    exec (.enc d l) s = .next { s with responses := s.responses ++ [.enc f] } ∧
    exec (.dec 11#8 f) t = .next { t with responses := t.responses ++ [.dec (.ok { d := d, l := l })] }

/-- 41_codec R111 (which the spec marks as derived): a sequence that `DEC` accepts is what `ENC` gives for the Reading returned. -/
def Obligations.DecEncRoundTrip : Prop :=
  ∀ (s t : State) (q : List Byte) (r : Reading),
    exec (.dec 11#8 q) s = .next { s with responses := s.responses ++ [.dec (.ok r)] } →
    exec (.enc r.d r.l) t = .next { t with responses := t.responses ++ [.enc q] }

/-- 41_codec R112 (which the spec marks as derived): eleven bytes with a wrong start marker, or with a right one and a wrong end marker, are rejected for it
whatever the other bytes are. -/
def Obligations.MarkerRejection : Prop :=
  (∀ (s : State) (q : List Byte), q.length = 11 → q[0]? ≠ some 0x55#8 →
    exec (.dec 11#8 q) s = .next { s with responses := s.responses ++ [.dec (.err .badStartMarker)] }) ∧
  (∀ (s : State) (q : List Byte), q.length = 11 → q[0]? = some 0x55#8 → q[10]? ≠ some 0xAA#8 →
    exec (.dec 11#8 q) s = .next { s with responses := s.responses ++ [.dec (.err .badEndMarker)] })

/-- 41_codec R113 (which the spec marks as derived): one flipped bit of a valid Frame is always rejected, for the start marker in byte 0, the end marker in
byte 10 and the checksum in the bytes between. -/
def Obligations.SingleBitCorruptionRejected : Prop :=
  ∀ (s : State) (f : List Byte) (i j : Nat), validFrame f = true → i < 11 → j < 8 →
    exec (.dec 11#8 (flipBit f i j)) s =
      .next { s with responses := s.responses ++ [.dec (.err
        (if i = 0 then .badStartMarker else if i = 10 then .badEndMarker else .checksumMismatch))] }

/-- 41_codec R114 (which the spec marks as derived); 40_checksum R92: exchanging two payload bytes of a valid Frame leaves a valid Frame, so `DEC` accepts it. -/
def Obligations.PayloadExchangeUndetected : Prop :=
  ∀ (s : State) (f : List Byte) (i j : Nat), validFrame f = true → 1 ≤ i → i ≤ 8 → 1 ≤ j → j ≤ 8 →
    ∃ r, exec (.dec 11#8 (exchange f i j)) s = .next { s with responses := s.responses ++ [.dec (.ok r)] }

/-! ### FEED -/

/-- 42_receiver R122, R123 from a quiescent state: `FEED` from any command word with its opcode; below eleven bytes it appends
and answers `Pending`; the eleventh byte completes a window, which is emitted and consumed, or loses its head. -/
def Obligations.FeedResult : Prop :=
  (∀ (hi : BitVec 80) (len : BitVec 8) (b : Byte), decode (hi ++ b ++ len ++ 0b011#3) = .ok (.feed b)) ∧
  (∀ (s : State) (b : Byte), s.acc.length ≤ 9 →
    exec (.feed b) s = .next { s with acc := s.acc ++ [b], responses := s.responses ++ [.feed .pending] }) ∧
  (∀ (s : State) (b : Byte) (r : Reading), s.acc.length = 10 → parse (s.acc ++ [b]) = .ok r →
    exec (.feed b) s = .next { s with acc := [], responses := s.responses ++ [.feed (.emit r)] }) ∧
  (∀ (s : State) (b : Byte) (e : FrameError), s.acc.length = 10 → parse (s.acc ++ [b]) = .err e →
    exec (.feed b) s =
      .next { s with acc := s.acc.drop 1 ++ [b], responses := s.responses ++ [.feed (.drop e)] })

/-- 42_receiver R124: a window whose head is not the start marker loses the head alone, reported as `BadStartMarker`. -/
def Obligations.FeedDropsNonMarkerHead : Prop :=
  ∀ (s : State) (h b : Byte) (tl : List Byte), s.acc = h :: tl → tl.length = 9 → h ≠ 0x55#8 →
    exec (.feed b) s =
      .next { s with acc := tl ++ [b], responses := s.responses ++ [.feed (.drop .badStartMarker)] }

/-- 42_receiver R125: with ten bytes held, a `FEED` that completes a valid window emits the Reading `DEC` finds in it, and the
eleven bytes are consumed. -/
def Obligations.FeedEmitsValidWindow : Prop :=
  ∀ (s : State) (b : Byte), s.acc.length = 10 → validFrame (s.acc ++ [b]) = true →
    ∃ r, parse (s.acc ++ [b]) = .ok r ∧
      exec (.feed b) s = .next { s with acc := [], responses := s.responses ++ [.feed (.emit r)] }

/-- 42_receiver R126: a window with a start marker that does not validate loses its head alone and reports why. -/
def Obligations.FeedDropsFalseStart : Prop :=
  ∀ (s : State) (b : Byte) (tl : List Byte), s.acc = 0x55#8 :: tl → tl.length = 9 →
    validFrame (s.acc ++ [b]) = false →
    exec (.feed b) s =
      .next { s with acc := tl ++ [b], responses := s.responses ++
        [.feed (.drop (if b ≠ 0xAA#8 then .badEndMarker else .checksumMismatch))] }

/-- 42_receiver R128 (which the spec marks as derived): from every state, what a `FEED` reports is neither `MalformedLength` nor `TransportClosed`. -/
def Obligations.FeedErrorKinds : Prop :=
  ∀ (s : State) (b : Byte), ∃ ev m,
    exec (.feed b) s = .next { acc := m, commands := s.commands, responses := s.responses ++ [.feed ev] } ∧
    ev ≠ .drop .malformedLength ∧ ev ≠ .drop .transportClosed

/-- 42_receiver R140 (which the spec marks as derived): every drain iteration shortens the accumulator, the loop needs at most `ACC_LEN - 10` iterations from
any starting length, and `FEED` always completes, with at most ten bytes held. -/
def Obligations.FeedAlwaysEnds : Prop :=
  (∀ (w : List Byte) (m : Memory), 11 ≤ m.length → (judge w m).2.length < m.length) ∧
  (∀ (m : Memory) (ev : Event) (k : Nat), m.length - 10 ≤ k → drain k ev m = drain (m.length - 10) ev m) ∧
  (∀ (s : State) (b : Byte), ∃ ev m,
    exec (.feed b) s = .next { acc := m, commands := s.commands, responses := s.responses ++ [.feed ev] } ∧
    m.length ≤ 10)

/-- 42_receiver R133 (which the spec marks as derived): with `ACC_CAP >= 11` the overflow branch is never taken from a quiescent state, and nothing depends on
the capacity. -/
def Obligations.CapacityIndependence : Prop :=
  ∀ (cap : Nat) (s : State) (b : Byte), 11 ≤ cap → Quiescent s →
    accPush cap b s.acc = s.acc ++ [b] ∧ feedWith cap b s = feedWith 11 b s ∧ exec (.feed b) s = feedWith cap b s

/-- 10_state R24 (which the spec marks as derived): what the next `FEED` does in each phase. -/
def Obligations.PhaseTransitions : Prop :=
  ∀ (s : State) (b : Byte),
    (∀ k, phase s.acc = .fill k → ∃ t, exec (.feed b) s = .next t ∧
      phase t.acc = (if k = 9 then .armed else .fill (k + 1)) ∧ t.responses = s.responses ++ [.feed .pending]) ∧
    (phase s.acc = .armed → ∃ t, exec (.feed b) s = .next t ∧
      ((validFrame (s.acc ++ [b]) = true ∧ phase t.acc = .fill 0 ∧
          ∃ r, t.responses = s.responses ++ [.feed (.emit r)]) ∨
       (validFrame (s.acc ++ [b]) = false ∧ phase t.acc = .armed ∧
          ∃ e, t.responses = s.responses ++ [.feed (.drop e)])))

/-! ### CLEAR -/

/-- 42_receiver R130: `CLEAR` from any command word with its opcode, the whole next state and the response word. -/
def Obligations.ClearResult : Prop :=
  (∀ hi : BitVec 96, decode (hi ++ 0b100#3) = .ok .clear) ∧
  (∀ s : State, exec .clear s = .next { s with acc := [], responses := s.responses ++ [.clear] }) ∧
  rspWord .clear = 0#91

/-! ### Response words -/

/-- 30_encoding R73, R74, R75: the status field and the data bytes of every response. -/
def Obligations.ResponseWords : Prop :=
  (∀ (c : Byte) (i : Nat), i < 11 → (rspWord (.cksum c)).extractLsb' 0 3 = 0b000#3 ∧
    (rspWord (.cksum c)).extractLsb' (8 * i + 3) 8 = if i = 0 then c else 0x00#8) ∧
  (∀ (f : List Byte) (i : Nat), i < 11 → (rspWord (.enc f)).extractLsb' 0 3 = 0b000#3 ∧
    (rspWord (.enc f)).extractLsb' (8 * i + 3) 8 = f.getD i 0x00#8) ∧
  (∀ r : Reading, (rspWord (.dec (.ok r))).extractLsb' 0 3 = 0b000#3 ∧
    (rspWord (.dec (.ok r))).extractLsb' 3 32 = r.d ∧ (rspWord (.dec (.ok r))).extractLsb' 35 32 = r.l ∧
    (rspWord (.dec (.ok r))).extractLsb' 67 24 = 0#24 ∧
    rspWord (.feed (.emit r)) = rspWord (.dec (.ok r))) ∧
  rspWord (.dec (.err .malformedLength)) = 1#91 ∧
  rspWord (.dec (.err .badStartMarker)) = 2#91 ∧ rspWord (.feed (.drop .badStartMarker)) = 2#91 ∧
  rspWord (.dec (.err .badEndMarker)) = 3#91 ∧ rspWord (.feed (.drop .badEndMarker)) = 3#91 ∧
  rspWord (.dec (.err .checksumMismatch)) = 4#91 ∧ rspWord (.feed (.drop .checksumMismatch)) = 4#91 ∧
  rspWord (.feed .pending) = 7#91 ∧ rspWord .clear = 0#91

/-! ### Streams and whole scripts -/

/-- 10_state R25 (which the spec marks as derived): the results of `CKSUM`, `ENC` and `DEC` depend on their operands alone, and issuing them between `FEED`s and
`CLEAR`s changes neither those operations' results nor the accumulator. -/
def Obligations.StatelessUnitsDoNotInterfere : Prop :=
  (∀ i : Instr, reachesAcc i = false → ∃ r, ∀ s : State,
    exec i s = .next { s with responses := s.responses ++ [r] }) ∧
  (∀ (p : List Instr) (s : State), ∃ t t',
    issue p s = .next t ∧ issue (p.filter reachesAcc) s = .next t' ∧ t'.acc = t.acc ∧
    t'.responses.filter fromReceiver = t.responses.filter fromReceiver)

/-- The stream function satisfies the equation that defines it in 42_receiver R134 (which the spec marks as derived). -/
def Obligations.ScanEquation : Prop :=
  ∀ q : List Byte, scan q =
    if q.length < 11 then ([], q)
    else match parse (q.take 11) with
      | .ok r => (.emit r :: (scan (q.drop 11)).1, (scan (q.drop 11)).2)
      | .err e => (.drop e :: (scan (q.drop 1)).1, (scan (q.drop 1)).2)

/-- 42_receiver R134 (which the spec marks as derived): from a quiescent state, `FEEDS t` gives the events of `scan(a ++ t)`, one event a byte with every
`Pending` left out, and leaves its remainder. -/
def Obligations.FeedsComputeScan : Prop :=
  ∀ (a t : List Byte) (cs : List CmdWord) (rs : List Response), a.length ≤ 10 →
    ∃ evs : List Event,
      issue (feeds t) { acc := a, commands := cs, responses := rs } =
        .next { acc := (scan (a ++ t)).2, commands := cs, responses := rs ++ evs.map .feed } ∧
      evs.length = t.length ∧ evs.filter (fun ev => ev != .pending) = (scan (a ++ t)).1

/-- 42_receiver R132 (which the spec marks as derived): how a stream is split into chunks makes no difference; and from a quiescent state the events are those
of appending the chunks first and draining after. -/
def Obligations.ChunkIndependence : Prop :=
  ∀ (chunks : List (List Byte)) (s : State),
    feedChunks chunks s = issue (feeds chunks.flatten) s ∧
    (Quiescent s → ∃ evs : List Event,
      feedChunks chunks s =
        .next { s with acc := (scan (s.acc ++ chunks.flatten)).2, responses := s.responses ++ evs.map .feed } ∧
      evs.filter (fun ev => ev != .pending) = (scan (s.acc ++ chunks.flatten)).1)

/-- 42_receiver R135 (which the spec marks as derived): garbage none of whose windows is valid costs one `Drop` a byte, and the Frame behind it is emitted; with
two bytes `FF` the events are the three of the rule, at the last three `FEED`s. -/
def Obligations.Resynchronization : Prop :=
  (∀ (s : State) (g : List Byte) (d l : Word32), s.acc = [] →
    (∀ k, k < g.length → validFrame (((g ++ serialize d l).drop k).take 11) = false) →
    ∃ evs drops : List Event,
      issue (feeds (g ++ serialize d l)) s = .next { s with responses := s.responses ++ evs.map .feed } ∧
      evs.filter (fun ev => ev != .pending) = drops ++ [.emit { d := d, l := l }] ∧
      drops.length = g.length ∧ ∀ x ∈ drops, ∃ e, x = .drop e) ∧
  (∀ (s : State) (d l : Word32), s.acc = [] →
    issue (feeds ([0xFF#8, 0xFF#8] ++ serialize d l)) s =
      .next { s with responses := s.responses ++ (List.replicate 10 (.feed .pending) ++
        [.feed (.drop .badStartMarker), .feed (.drop .badStartMarker), .feed (.emit { d := d, l := l })]) })

/-- 42_receiver R136 (which the spec marks as derived): a false start with a wrong checksum costs one byte, not eleven, and the genuine Frame behind it is
emitted, provided none of the ten windows between is valid; which holds when none of the ten bytes is the start marker. -/
def Obligations.EmbeddedMarkerTrap : Prop :=
  (∀ (s : State) (z : List Byte) (d l : Word32), s.acc = [] → z.length = 11 → z[0]? = some 0x55#8 →
    z[10]? = some 0xAA#8 → z[9]? ≠ some (xorfold (z.take 9)) →
    (∀ k, 1 ≤ k → k ≤ 10 → validFrame (((z ++ serialize d l).drop k).take 11) = false) →
    ∃ evs drops : List Event,
      issue (feeds (z ++ serialize d l)) s = .next { s with responses := s.responses ++ evs.map .feed } ∧
      evs.filter (fun ev => ev != .pending) =
        .drop .checksumMismatch :: (drops ++ [.emit { d := d, l := l }]) ∧
      drops.length = 10 ∧ ∀ x ∈ drops, ∃ e, x = .drop e) ∧
  (∀ (z : List Byte) (d l : Word32), z.length = 11 → (∀ x ∈ z.drop 1, x ≠ 0x55#8) →
    ∀ k, 1 ≤ k → k ≤ 10 → validFrame (((z ++ serialize d l).drop k).take 11) = false)

/-- 42_receiver R137 (which the spec marks as derived), at every place where a Frame can be split: the first part gives only `Pending`s and is held, the second
part's last byte gives the Reading. -/
def Obligations.PartialDelivery : Prop :=
  ∀ (s : State) (d l : Word32) (k : Nat), s.acc = [] → k ≤ 10 →
    issue (feeds ((serialize d l).take k)) s =
      .next { s with acc := (serialize d l).take k,
                     responses := s.responses ++ List.replicate k (.feed .pending) } ∧
    (∀ u : State, u.acc = (serialize d l).take k →
      issue (feeds ((serialize d l).drop k)) u =
        .next { u with acc := [], responses := u.responses ++
          (List.replicate (10 - k) (.feed .pending) ++ [.feed (.emit { d := d, l := l })]) })

/-- 30_encoding R83, `LOOP`: what `ENC` gives, fed back into an empty accumulator, is emitted as the same Reading. -/
def Obligations.LoopbackEmitsReading : Prop :=
  ∀ (s : State) (d l : Word32), s.acc = [] →
    issue (loopback d l) s =
      .next { s with responses := s.responses ++ (.enc (serialize d l) ::
        (List.replicate 10 (.feed .pending) ++ [.feed (.emit { d := d, l := l })])) }

/-- 42_receiver R130, R141: from every state, after `CLEAR` the first Frame of the new stream is emitted. -/
def Obligations.ClearThenFrameEmitted : Prop :=
  ∀ (s : State) (d l : Word32),
    issue (reconnect ++ feeds (serialize d l)) s =
      .next { s with acc := [], responses := s.responses ++ (.clear ::
        (List.replicate 10 (.feed .pending) ++ [.feed (.emit { d := d, l := l })])) }
end

