-- ==== Sys2Proof/Laws/Codec.lean ====
section
/-! SUPPORT. Sys2Proof/Laws/Codec.lean: the fold, the Frame written out, and all that the parser can answer. -/

namespace Sys2Proof.Machine

theorem xorfold_concat (s : List Byte) (b : Byte) : xorfold (s ++ [b]) = xor8 (xorfold s) b := by
  simp [xorfold]

/-- The fold started anywhere is the fold from zero with the start folded in. -/
theorem foldl_xor8_start (s : List Byte) (a : Byte) : s.foldl xor8 a = xor8 a (xorfold s) := by
  induction s generalizing a with
  | nil => simp [xorfold, xor8]
  | cons b s ih =>
    simp only [xorfold, List.foldl_cons] at ih ⊢
    rw [ih (xor8 a b), ih (xor8 0x00#8 b)]
    simp [xor8, BitVec.xor_assoc]

theorem xorfold_cons (b : Byte) (s : List Byte) : xorfold (b :: s) = xor8 b (xorfold s) := by
  rw [← foldl_xor8_start]
  simp [xorfold, xor8]

/-- The Frame, byte by byte (R61). -/
theorem serialize_bytes (d l : Word32) :
    serialize d l =
      [startMarker, d.extractLsb' 0 8, d.extractLsb' 8 8, d.extractLsb' 16 8, d.extractLsb' 24 8,
        l.extractLsb' 0 8, l.extractLsb' 8 8, l.extractLsb' 16 8, l.extractLsb' 24 8,
        xorfold (frameSpan d l), endMarker] := rfl

@[simp] theorem serialize_length (d l : Word32) : (serialize d l).length = 11 := rfl

/-- A sequence of length 11 is eleven bytes. -/
theorem eleven_bytes {q : List Byte} (h : q.length = 11) :
    ∃ s0 s1 s2 s3 s4 s5 s6 s7 s8 s9 s10, q = [s0, s1, s2, s3, s4, s5, s6, s7, s8, s9, s10] := by
  match q, h with
  | [s0, s1, s2, s3, s4, s5, s6, s7, s8, s9, s10], _ => exact ⟨s0, s1, s2, s3, s4, s5, s6, s7, s8, s9, s10, rfl⟩

theorem parse_of_length_ne {q : List Byte} (h : q.length ≠ 11) : parse q = .err .malformedLength := by
  unfold parse
  split
  · simp at h
  · rfl

/-- The answers of the parser on eleven bytes (R105): three rejections, each with what it means, or the Reading. -/
theorem parse_eleven_cases {s0 s1 s2 s3 s4 s5 s6 s7 s8 s9 s10 : Byte} :
    (s0 ≠ startMarker ∧ parse [s0, s1, s2, s3, s4, s5, s6, s7, s8, s9, s10] = .err .badStartMarker) ∨
    (s0 = startMarker ∧ s10 ≠ endMarker ∧
      parse [s0, s1, s2, s3, s4, s5, s6, s7, s8, s9, s10] = .err .badEndMarker) ∨
    (s0 = startMarker ∧ s10 = endMarker ∧ xorfold [s0, s1, s2, s3, s4, s5, s6, s7, s8] ≠ s9 ∧
      parse [s0, s1, s2, s3, s4, s5, s6, s7, s8, s9, s10] = .err .checksumMismatch) ∨
    (s0 = startMarker ∧ s10 = endMarker ∧ xorfold [s0, s1, s2, s3, s4, s5, s6, s7, s8] = s9 ∧
      parse [s0, s1, s2, s3, s4, s5, s6, s7, s8, s9, s10] =
        .ok { d := unle32 s1 s2 s3 s4, l := unle32 s5 s6 s7 s8 }) := by
  by_cases h0 : s0 = startMarker
  · by_cases h10 : s10 = endMarker
    · by_cases h9 : xorfold [s0, s1, s2, s3, s4, s5, s6, s7, s8] = s9
      · exact .inr (.inr (.inr ⟨h0, h10, h9, by simp only [parse, h0, h10, ne_eq, not_true_eq_false, if_false]; simp [← h0, h9]⟩))
      · exact .inr (.inr (.inl ⟨h0, h10, h9, by simp only [parse, h0, h10, ne_eq, not_true_eq_false, if_false]; simp [← h0, h9]⟩))
    · exact .inr (.inl ⟨h0, h10, by simp [parse, h0, h10]⟩)
  · exact .inl ⟨h0, by simp [parse, h0]⟩

/-- The parser never answers with the error no operation produces (R106, R155). -/
theorem parse_ne_transportClosed (q : List Byte) : parse q ≠ .err .transportClosed := by
  by_cases h : q.length = 11
  · obtain ⟨s0, s1, s2, s3, s4, s5, s6, s7, s8, s9, s10, rfl⟩ := eleven_bytes h
    rcases parse_eleven_cases (s0 := s0) (s1 := s1) (s2 := s2) (s3 := s3) (s4 := s4) (s5 := s5) (s6 := s6)
      (s7 := s7) (s8 := s8) (s9 := s9) (s10 := s10) with ⟨_, h⟩ | ⟨_, _, h⟩ | ⟨_, _, _, h⟩ | ⟨_, _, _, h⟩ <;>
      simp [h]
  · simp [parse_of_length_ne h]

theorem parse_ne_malformedLength {q : List Byte} (h : q.length = 11) : parse q ≠ .err .malformedLength := by
  obtain ⟨s0, s1, s2, s3, s4, s5, s6, s7, s8, s9, s10, rfl⟩ := eleven_bytes h
  rcases parse_eleven_cases (s0 := s0) (s1 := s1) (s2 := s2) (s3 := s3) (s4 := s4) (s5 := s5) (s6 := s6)
    (s7 := s7) (s8 := s8) (s9 := s9) (s10 := s10) with ⟨_, h⟩ | ⟨_, _, h⟩ | ⟨_, _, _, h⟩ | ⟨_, _, _, h⟩ <;>
    simp [h]

end Sys2Proof.Machine
end

