-- ==== Sys2Proof/Laws/Operands.lean ====
section
/-! SUPPORT. Sys2Proof/Laws/Operands.lean: byte lanes, byte order and the fields of a command word. -/

namespace Sys2Proof.Machine

@[simp] theorem le32_length (v : Word32) : (le32 v).length = 4 := rfl

theorem lane_zero (x : Lanes) : lane x 0 = x.setWidth 8 := by
  apply BitVec.eq_of_getLsbD_eq
  intro i hi
  simp [lane]

theorem lane_packLanes_zero (b : Byte) (bs : List Byte) : lane (packLanes (b :: bs)) 0 = b := by
  apply BitVec.eq_of_getLsbD_eq
  intro i hi
  simp [lane, packLanes, hi]
  omega

theorem lane_packLanes_succ (b : Byte) (bs : List Byte) {i : Nat} (hi : i < 10) :
    lane (packLanes (b :: bs)) (i + 1) = lane (packLanes bs) i := by
  apply BitVec.eq_of_getLsbD_eq
  intro j hj
  have hb : b.getLsbD (8 * (i + 1) + j) = false := BitVec.getLsbD_of_ge _ _ (by omega)
  have hk : 8 * (i + 1) + j - 8 = 8 * i + j := by omega
  have hlo : ¬ 8 * (i + 1) + j < 8 := by omega
  have hhi : 8 * (i + 1) + j < 88 := by omega
  simp only [lane, packLanes, BitVec.getLsbD_extractLsb', BitVec.getLsbD_or, BitVec.getLsbD_shiftLeft,
    BitVec.getLsbD_setWidth, hb, hk, hlo, hhi]
  simp

/-- Lane `i` of a packed sequence is its byte `i`, and zero beyond it (R71). -/
theorem lane_packLanes (bs : List Byte) {i : Nat} (hi : i < 11) : lane (packLanes bs) i = bs.getD i 0#8 := by
  induction bs generalizing i with
  | nil => simp [packLanes, lane]
  | cons b bs ih =>
    cases i with
    | zero => simpa using lane_packLanes_zero b bs
    | succ k => simpa using (lane_packLanes_succ b bs (by omega)).trans (ih (by omega))

/-- The bits of a little-endian field, byte by byte (R12). -/
theorem unle32_getLsbD (s0 s1 s2 s3 : Byte) (i : Nat) :
    (unle32 s0 s1 s2 s3).getLsbD i =
      if i < 8 then s0.getLsbD i else if i < 16 then s1.getLsbD (i - 8)
      else if i < 24 then s2.getLsbD (i - 16) else s3.getLsbD (i - 24) := by
  change BitVec.getLsbD (s3 ++ s2 ++ s1 ++ s0 : BitVec (8 + 8 + 8 + 8)) i = _
  simp only [BitVec.getLsbD_append]
  split_ifs <;> first | rfl | omega

/-- Two packed little-endian fields: the first in bits 31 to 0, the second in bits 63 to 32, zero above (R72, R75). -/
theorem packLanes_le32_getLsbD (d l : Word32) (i : Nat) :
    (packLanes (le32 d ++ le32 l)).getLsbD i =
      if i < 32 then d.getLsbD i else if i < 64 then l.getLsbD (i - 32) else false := by
  by_cases h : i < 88
  · simp only [le32, List.cons_append, List.nil_append, packLanes, BitVec.getLsbD_or, BitVec.getLsbD_shiftLeft,
      BitVec.getLsbD_setWidth, BitVec.getLsbD_extractLsb', BitVec.getLsbD_zero]
    interval_cases i <;> simp
  · have h1 : ¬ i < 32 := by omega
    have h2 : ¬ i < 64 := by omega
    simp [h1, h2, BitVec.getLsbD_of_ge _ i (Nat.not_lt.mp h)]

@[simp] theorem lanes_length (x : Lanes) (n : Nat) : (lanes x n).length = n := by simp [lanes]

/-- The first `n` lanes of a packed `n`-byte sequence are the sequence. -/
theorem lanes_packLanes {bs : List Byte} {n : Nat} (hn : bs.length = n) (h : n ≤ 11) :
    lanes (packLanes bs) n = bs := by
  apply List.ext_getElem
  · simp [hn]
  · intro i h1 h2
    simp only [lanes, List.getElem_map, List.getElem_range]
    rw [lane_packLanes bs (by simp at h1; omega)]
    simp [h2]

end Sys2Proof.Machine

namespace Sys2Proof

/-- The bits of a command word, field by field (R71). -/
theorem cmdWord_getLsbD (op : BitVec 3) (len : BitVec 8) (data : Lanes) (i : Nat) :
    (cmdWord op len data).getLsbD i =
      if i < 3 then op.getLsbD i else if i < 11 then len.getLsbD (i - 3) else data.getLsbD (i - 11) := by
  change BitVec.getLsbD (data ++ len ++ op : BitVec (88 + 8 + 3)) i = _
  rw [BitVec.getLsbD_append, BitVec.getLsbD_append]
  by_cases h : i < 3
  · simp [h]
  · by_cases h' : i < 11
    · simp [h, h', show i - 3 < 8 by omega]
    · simp [h, h', show ¬ i - 3 < 8 by omega, show i - 3 - 8 = i - 11 by omega]

theorem cmdOp_cmdWord (op : BitVec 3) (len : BitVec 8) (data : Lanes) : cmdOp (cmdWord op len data) = op := by
  apply BitVec.eq_of_getLsbD_eq
  intro i hi
  simp only [cmdOp, BitVec.getLsbD_extractLsb', cmdWord_getLsbD, hi]
  simp [hi]

theorem cmdLen_cmdWord (op : BitVec 3) (len : BitVec 8) (data : Lanes) : cmdLen (cmdWord op len data) = len := by
  apply BitVec.eq_of_getLsbD_eq
  intro i hi
  simp only [cmdLen, BitVec.getLsbD_extractLsb', cmdWord_getLsbD, hi]
  simp [show 3 + i < 11 by omega]

theorem cmdData_cmdWord (op : BitVec 3) (len : BitVec 8) (data : Lanes) : cmdData (cmdWord op len data) = data := by
  apply BitVec.eq_of_getLsbD_eq
  intro i hi
  simp only [cmdData, BitVec.getLsbD_extractLsb', cmdWord_getLsbD, hi]
  simp [show ¬ 11 + i < 3 by omega]

end Sys2Proof
end

