-- ==== Sys2Proof/Laws/Flags.lean ====
section
/-! SUPPORT. Sys2Proof/Laws/Flags.lean: the bits of a response word and which status codes can appear. -/

namespace Sys2Proof.Machine

/-- The bits of a response word, field by field (R73). -/
theorem rspWord_getLsbD (r : Response) (i : Nat) :
    (rspWord r).getLsbD i = if i < 3 then (statusOf r).getLsbD i else (rdataOf r).getLsbD (i - 3) := by
  change BitVec.getLsbD (rdataOf r ++ statusOf r : BitVec (88 + 3)) i = _
  rw [BitVec.getLsbD_append]

/-- The status field of a response word (R73). -/
theorem rspWord_status (r : Response) : (rspWord r).extractLsb' 0 3 = statusOf r := by
  apply BitVec.eq_of_getLsbD_eq
  intro i hi
  simp only [BitVec.getLsbD_extractLsb', rspWord_getLsbD]
  simp [hi]

/-- Byte `i` of the data field of a response word (R73). -/
theorem rspWord_lane (r : Response) (i : Nat) : (rspWord r).extractLsb' (8 * i + 3) 8 = lane (rdataOf r) i := by
  apply BitVec.eq_of_getLsbD_eq
  intro j hj
  simp only [lane, BitVec.getLsbD_extractLsb', rspWord_getLsbD]
  simp [show ¬ 8 * i + 3 + j < 3 by omega, show 8 * i + 3 + j - 3 = 8 * i + j by omega]

end Sys2Proof.Machine
end

