-- ==== Sys2Proof/Laws/State.lean ====
section
/-! SUPPORT. Sys2Proof/Laws/State.lean: each field of the state after each update. -/

namespace Sys2Proof.Machine

@[simp] theorem reset_acc : State.reset.acc = [] := rfl
@[simp] theorem reset_commands : State.reset.commands = [] := rfl
@[simp] theorem reset_responses : State.reset.responses = [] := rfl

@[simp] theorem resetBlock_acc (s : State) : (resetBlock s).acc = [] := rfl
@[simp] theorem resetBlock_commands (s : State) : (resetBlock s).commands = s.commands := rfl
@[simp] theorem resetBlock_responses (s : State) : (resetBlock s).responses = s.responses := rfl

@[simp] theorem presentCommand_acc (w : CmdWord) (s : State) : (presentCommand w s).acc = s.acc := rfl
@[simp] theorem presentCommand_commands (w : CmdWord) (s : State) :
    (presentCommand w s).commands = w :: s.commands := rfl
@[simp] theorem presentCommand_responses (w : CmdWord) (s : State) :
    (presentCommand w s).responses = s.responses := rfl

theorem takeCommand_nil {s : State} (h : s.commands = []) : takeCommand s = none := by
  simp [takeCommand, h]

theorem takeCommand_cons {s : State} {w : CmdWord} {rest : List CmdWord} (h : s.commands = w :: rest) :
    takeCommand s = some (w, { s with commands := rest }) := by
  simp [takeCommand, h]

theorem takeCommand_presentCommand (w : CmdWord) (s : State) : takeCommand (presentCommand w s) = some (w, s) := rfl

/-- All that `respond` does: it completes, and it appends its response. -/
theorem respond_eq (r : Response) (s : State) : respond r s = .next { s with responses := s.responses ++ [r] } := rfl

end Sys2Proof.Machine
end

