-- ==== Sys2Proof/Laws/Ops.lean ====
section
/-! SUPPORT. Sys2Proof/Laws/Ops.lean: all that each primitive over the accumulator can do, and that it keeps the
form of the store. -/

namespace Sys2Proof.Machine

theorem memory_wf_iff (m : Memory) : m.wf = true ↔ m.length ≤ 10 := by simp [Memory.wf]

theorem memRead_of_le {m : Memory} {addr n : Nat} (h : addr + n ≤ m.length) :
    memRead m addr n = .ok ((m.drop addr).take n) := if_pos h

theorem memRead_of_lt {m : Memory} {addr n : Nat} (h : m.length < addr + n) :
    memRead m addr n = .error (.accRange addr n) := if_neg (Nat.not_le.mpr h)

@[simp] theorem accDrop_length (n : Nat) (m : Memory) : (accDrop n m).length = m.length - n := List.length_drop

theorem accPush_full {cap : Nat} {m : Memory} (b : Byte) (h : m.length = cap) :
    accPush cap b m = accDrop 1 m ++ [b] := if_pos h

theorem accPush_room {cap : Nat} {m : Memory} (b : Byte) (h : m.length ≠ cap) : accPush cap b m = m ++ [b] :=
  if_neg h

/-- On a store in its form the overflow branch is not taken, whatever the capacity (42_receiver R133). -/
theorem accPush_of_le {cap : Nat} {m : Memory} (b : Byte) (hc : 11 ≤ cap) (hm : m.length ≤ 10) :
    accPush cap b m = m ++ [b] := accPush_room b (by omega)

theorem accDrop_wf {m : Memory} (n : Nat) (h : m.wf = true) : (accDrop n m).wf = true := by
  rw [memory_wf_iff] at *
  simp only [accDrop_length]
  omega

theorem accClear_wf : Memory.wf accClear = true := rfl

theorem reset_wf : State.reset.acc.wf = true := rfl

theorem resetBlock_wf (s : State) : (resetBlock s).acc.wf = true := rfl

end Sys2Proof.Machine
end

