-- ==== Sys2Proof/Laws/PerInstr.lean ====
section
/-! SUPPORT. Sys2Proof/Laws/PerInstr.lean: for every operation, the fields of its encoded command word (30_encoding R71, R72). -/

namespace Sys2Proof.Laws.EncodedFields

/-- The three fields of an encoded operation hold its opcode, its length and its data. -/
def Statement (i : Instr) : Prop :=
  cmdOp (encode i) = opcodeOf i ∧ cmdLen (encode i) = operandLen i ∧ cmdData (encode i) = operandData i

theorem cksum (bytes : List Byte) : Statement (.cksum bytes) :=
  ⟨cmdOp_cmdWord _ _ _, cmdLen_cmdWord _ _ _, cmdData_cmdWord _ _ _⟩

theorem enc (d l : Word32) : Statement (.enc d l) :=
  ⟨cmdOp_cmdWord _ _ _, cmdLen_cmdWord _ _ _, cmdData_cmdWord _ _ _⟩

theorem dec (len : BitVec 8) (shown : List Byte) : Statement (.dec len shown) :=
  ⟨cmdOp_cmdWord _ _ _, cmdLen_cmdWord _ _ _, cmdData_cmdWord _ _ _⟩

theorem feed (b : Byte) : Statement (.feed b) :=
  ⟨cmdOp_cmdWord _ _ _, cmdLen_cmdWord _ _ _, cmdData_cmdWord _ _ _⟩

theorem clear : Statement .clear :=
  ⟨cmdOp_cmdWord _ _ _, cmdLen_cmdWord _ _ _, cmdData_cmdWord _ _ _⟩

end Sys2Proof.Laws.EncodedFields
end

