-- ==== Sys2Proof/Laws/Receiver.lean ====
section
/-! SUPPORT. Sys2Proof/Laws/Receiver.lean: all that a drain iteration, the drain loop and FEED can do. -/

namespace Sys2Proof.Machine

/-- A drain iteration emits and drops eleven bytes, or reports and drops one (R123). -/
theorem judge_cases (w : List Byte) (m : Memory) :
    (∃ r, parse w = .ok r ∧ judge w m = (.emit r, m.drop 11)) ∨
    (∃ e, parse w = .err e ∧ judge w m = (.drop e, m.drop 1)) := by
  unfold judge
  split
  · exact .inl ⟨_, ‹_›, rfl⟩
  · exact .inr ⟨_, ‹_›, rfl⟩

/-- Every iteration shortens the accumulator (R140). -/
theorem judge_length_lt (w : List Byte) {m : Memory} (h : 0 < m.length) : (judge w m).2.length < m.length := by
  rcases judge_cases w m with ⟨_, _, hj⟩ | ⟨_, _, hj⟩ <;> simp [hj] <;> omega

theorem drain_short {fuel : Nat} {ev : Event} {m : Memory} (h : m.length < 11) : drain fuel ev m = .ok (ev, m) := by
  cases fuel <;> simp [drain, h]

theorem drain_window {fuel : Nat} {ev : Event} {m : Memory} (h : 11 ≤ m.length) :
    drain (fuel + 1) ev m = drain fuel (judge (m.take 11) m).1 (judge (m.take 11) m).2 := by
  simp [drain, memRead_of_le (addr := 0) (n := 11) (m := m) (by omega), show ¬ m.length < 11 by omega]

/-- The loop ends, without a fault, with fewer than eleven bytes held (R127, R140), and whatever property of events the
start and every judgement of an eleven-byte window have, its event has. -/
theorem drain_spec {P : Event → Prop} (hP : ∀ w m, w.length = 11 → P (judge w m).1) {fuel : Nat} {ev : Event}
    {m : Memory} (hf : m.length ≤ fuel) (hev : P ev) :
    ∃ ev' m', drain fuel ev m = .ok (ev', m') ∧ m'.length ≤ 10 ∧ P ev' := by
  induction fuel generalizing ev m with
  | zero => exact ⟨ev, m, rfl, by omega, hev⟩
  | succ k ih =>
    by_cases h : m.length < 11
    · exact ⟨ev, m, drain_short h, by omega, hev⟩
    · rw [drain_window (by omega)]
      have hlt := judge_length_lt (m.take 11) (m := m) (by omega)
      exact ih (by omega) (hP _ _ (by simp; omega))

/-- FEED completes from every state, changes `ACC` alone, leaves at most ten bytes and gives one event, which has every
property that `Pending` and the judgements of eleven-byte windows have. -/
theorem feedWith_spec {P : Event → Prop} (hP : ∀ w m, w.length = 11 → P (judge w m).1) (h0 : P .pending)
    (cap : Nat) (b : Byte) (s : State) :
    ∃ ev m, feedWith cap b s =
        .next { acc := m, commands := s.commands, responses := s.responses ++ [.feed ev] } ∧
      m.length ≤ 10 ∧ P ev := by
  obtain ⟨ev, m, hd, hm, hp⟩ := drain_spec hP (Nat.le_refl (accPush cap b s.acc).length) h0
  exact ⟨ev, m, by simp [feedWith, hd, respond_eq], hm, hp⟩

/-- Below eleven bytes a FEED only appends (R122, R127). -/
theorem feedWith_fill {cap : Nat} (hc : 11 ≤ cap) (b : Byte) {s : State} (h : s.acc.length ≤ 9) :
    feedWith cap b s = .next { s with acc := s.acc ++ [b], responses := s.responses ++ [.feed .pending] } := by
  simp [feedWith, accPush_of_le b hc (show s.acc.length ≤ 10 by omega), respond_eq,
    drain_short (m := s.acc ++ [b]) (show (s.acc ++ [b]).length < 11 by simp; omega)]

/-- With ten bytes held a FEED runs exactly one iteration, on the window they make with the new byte (R129). -/
theorem feedWith_judge {cap : Nat} (hc : 11 ≤ cap) (b : Byte) {s : State} (h : s.acc.length = 10) :
    feedWith cap b s =
      .next { s with acc := (judge (s.acc ++ [b]) (s.acc ++ [b])).2,
                     responses := s.responses ++ [.feed (judge (s.acc ++ [b]) (s.acc ++ [b])).1] } := by
  have hl : (s.acc ++ [b]).length = 11 := by simp [h]
  have ht : (s.acc ++ [b]).take 11 = s.acc ++ [b] := List.take_of_length_le (by omega)
  have hlt := judge_length_lt (s.acc ++ [b]) (m := s.acc ++ [b]) (by omega)
  simp only [feedWith, accPush_of_le b hc (show s.acc.length ≤ 10 by omega)]
  rw [show (s.acc ++ [b]).length = 10 + 1 from hl, drain_window (by omega), ht,
    drain_short (by omega)]
  rfl

/-- The store is in its form after every FEED. -/
theorem execFeed_wf (b : Byte) (s : State) :
    ∃ t, execFeed b s = .next t ∧ t.acc.wf = true := by
  obtain ⟨ev, m, h, hm, _⟩ := feedWith_spec (P := fun _ => True) (fun _ _ _ => trivial) trivial Config.accCap b s
  exact ⟨_, h, (memory_wf_iff m).mpr hm⟩

end Sys2Proof.Machine
end

