-- ==== Sys2Proof/Laws/Step.lean ====
section
/-! SUPPORT. Sys2Proof/Laws/Step.lean: all that an operation and a step can do. -/

namespace Sys2Proof.Machine

/-- All that an operation can do to the state: `FEED` leaves at most ten bytes, `CLEAR` none, the others what was there;
each appends one response, and no operation looks at or changes the waiting commands. -/
theorem exec_cases (i : Instr) (s : State) :
    (∃ b ev m, i = .feed b ∧ m.length ≤ 10 ∧
      exec i s = .next { acc := m, commands := s.commands, responses := s.responses ++ [.feed ev] }) ∨
    (i = .clear ∧ exec i s = .next { acc := [], commands := s.commands, responses := s.responses ++ [.clear] }) ∨
    (∃ r, (∀ ev, r ≠ .feed ev) ∧ exec i s = .next { s with responses := s.responses ++ [r] }) := by
  cases i with
  | cksum bytes => exact .inr (.inr ⟨.cksum (xorfold bytes), by simp, rfl⟩)
  | enc d l => exact .inr (.inr ⟨.enc (serialize d l), by simp, rfl⟩)
  | dec len shown => exact .inr (.inr ⟨.dec (parseShown len shown), by simp, rfl⟩)
  | clear => exact .inr (.inl ⟨rfl, rfl⟩)
  | feed b =>
    obtain ⟨ev, m, h, hm, _⟩ := feedWith_spec (P := fun _ => True) (fun _ _ _ => trivial) trivial Config.accCap b s
    exact .inl ⟨b, ev, m, rfl, hm, h⟩

/-- All that a step can do: nothing when no command waits; otherwise it runs the decoded operation, or refuses a reserved
opcode by name (R76). -/
theorem step_cases (s : State) :
    (s.commands = [] ∧ step s = .next s) ∨
    (∃ w rest i, s.commands = w :: rest ∧ decode w = .ok i ∧ step s = exec i { s with commands := rest }) ∨
    (∃ w rest op, s.commands = w :: rest ∧ decode w = .error (.reservedOpcode op) ∧
      step s = .refused (.reservedOpcode op)) := by
  cases hc : s.commands with
  | nil => exact .inl ⟨rfl, by simp [step, takeCommand_nil hc]⟩
  | cons w rest =>
    cases hd : decode w with
    | ok i => exact .inr (.inl ⟨w, rest, i, rfl, hd, by simp [step, takeCommand_cons hc, hd]⟩)
    | error e =>
      cases e with
      | reservedOpcode op => exact .inr (.inr ⟨w, rest, op, rfl, hd, by simp [step, takeCommand_cons hc, hd]⟩)

theorem step_presentCommand {w : CmdWord} {i : Instr} (s : State) (h : decode w = .ok i) :
    step (presentCommand w s) = exec i s := by
  simp [step, takeCommand_presentCommand, h]

end Sys2Proof.Machine
end

