-- ==== Sys2Proof/Laws/Stream.lean ====
section
/-! SUPPORT. Sys2Proof/Laws/Stream.lean: scripts one after another, and the stream function's fuel. -/

namespace Sys2Proof.Machine

@[simp] theorem feeds_nil : feeds [] = [] := rfl

@[simp] theorem feeds_cons (b : Byte) (bs : List Byte) : feeds (b :: bs) = .feed b :: feeds bs := rfl

@[simp] theorem feeds_append (t u : List Byte) : feeds (t ++ u) = feeds t ++ feeds u := List.map_append

theorem issue_cons_next {i : Instr} {p : List Instr} {s t : State} (h : exec i s = .next t) :
    issue (i :: p) s = issue p t := by
  simp [issue, h]

/-- A script that ends in a next state can be followed by another (20_memory R52). -/
theorem issue_append {p q : List Instr} {s t : State} (h : issue p s = .next t) : issue (p ++ q) s = issue q t := by
  induction p generalizing s with
  | nil =>
    simp only [issue, Host.Outcome.next.injEq] at h
    simp [h]
  | cons i p ih =>
    simp only [List.cons_append, issue] at h ⊢
    split at h <;> simp_all

/-- More fuel than the length changes nothing. -/
theorem scanFuel_of_le {fuel : Nat} {q : List Byte} (h : q.length ≤ fuel) : scanFuel fuel q = scan q := by
  have key : ∀ n (q : List Byte) f g, q.length ≤ n → q.length ≤ f → q.length ≤ g → scanFuel f q = scanFuel g q := by
    intro n
    induction n with
    | zero =>
      intro q f g hn _ _
      have hq : q.length < 11 := by omega
      cases f <;> cases g <;> simp [scanFuel, hq]
    | succ n ih =>
      intro q f g hn hf hg
      by_cases hq : q.length < 11
      · cases f <;> cases g <;> simp [scanFuel, hq]
      · have hk : ∀ k, 1 ≤ k → (q.drop k).length + 1 ≤ q.length := by intro k hk; simp; omega
        have h11 := hk 11 (by omega)
        have h1 := hk 1 (by omega)
        obtain ⟨f, rfl⟩ : ∃ k, f = k + 1 := ⟨f - 1, by omega⟩
        obtain ⟨g, rfl⟩ : ∃ k, g = k + 1 := ⟨g - 1, by omega⟩
        simp only [scanFuel, hq, if_false]
        rw [ih (q.drop 11) f g (by omega) (by omega) (by omega), ih (q.drop 1) f g (by omega) (by omega) (by omega)]
  exact key _ q fuel q.length (Nat.le_refl _) h (Nat.le_refl _)

end Sys2Proof.Machine
end

