-- ==== Sys2Proof/Machine/Interpret.lean ====
section
/-! DEFINITION. Sys2Proof/Machine/Interpret.lean: which number a 32-bit pattern stands for (00_scope R13). Used only to
read test vectors and never by an operation. PRESUMED: the binary32 layout and two's complement are the spec's passages
"from general knowledge, not in source" (93_implementation_defined G1, G2; log entry 12). -/

namespace Sys2Proof.Machine

/-- A binary32 value: a finite one is `±mant * 2^exp`, exactly. -/
inductive F32 where
  | nan (neg : Bool) (fraction : BitVec 23)
  | inf (neg : Bool)
  | finite (neg : Bool) (mant : Nat) (exp : Int)
  deriving DecidableEq, Repr

/-- `f32(v)`: sign `v[31]`, biased exponent `v[30:23]`, fraction `v[22:0]` (R13). A normal value
`2^(exponent-127) * (1 + fraction/2^23)` is `(2^23 + fraction) * 2^(exponent-150)`; a subnormal is `fraction * 2^(-149)`. -/
def f32 (v : Word32) : F32 :=
  let neg := v.getLsbD 31
  let exponent := (v.extractLsb' 23 8).toNat
  let fraction := v.extractLsb' 0 23
  if exponent = 255 then (if fraction = 0#23 then .inf neg else .nan neg fraction)
  else if exponent = 0 then .finite neg fraction.toNat (-149)
  else .finite neg (2 ^ 23 + fraction.toNat) ((exponent : Int) - 150)

/-- `s32(v)`: `v` when `v[31] = 0`, else `v - 2^32` (R13). -/
def s32 (v : Word32) : Int := if v.getLsbD 31 then (v.toNat : Int) - 2 ^ 32 else (v.toNat : Int)

end Sys2Proof.Machine
end

