-- ==== Sys2Proof/Tests/Slice0.lean ====
section
/-! SUPPORT. Sys2Proof/Tests/Slice0.lean: the model's own tests. Every expected result comes from the spec, named in the comment
above it; the witnesses at the end show that the hypotheses of each statement can be met. -/

namespace Sys2Proof.Tests

open Sys2Proof Sys2Proof.Machine

/-- The source's example Frame (95_test_vectors V-SRC-01). -/
def exampleFrame : List Byte := [0x55#8, 0x00#8, 0x00#8, 0x48#8, 0x41#8, 0x2C#8, 0x01#8, 0x00#8, 0x00#8, 0x71#8, 0xAA#8]

/-- A state with these bytes held. -/
def holding (acc : List Byte) : State := { acc := acc, commands := [], responses := [] }

/-- What an operation leaves in the accumulator and the response words it gives; `none` where it stops. -/
def seen (o : Host.Outcome State Fault Refusal) : Option (List Byte × List RspWord) :=
  match o with
  | .next t => some (t.acc, t.responses.map rspWord)
  | _ => none

/-! ### Well-formedness: each check refuses an ill-formed term (30_encoding R72, R79) -/

theorem test_wf_cksum_eight_bytes : WellFormed (.cksum (exampleFrame.take 8)) = false := by decide
theorem test_wf_cksum_ten_bytes : WellFormed (.cksum (exampleFrame.take 10)) = false := by decide
theorem test_wf_dec_too_few_shown : WellFormed (.dec 11#8 (exampleFrame.take 10)) = false := by decide
theorem test_wf_dec_too_many_shown : WellFormed (.dec 3#8 exampleFrame) = false := by decide
theorem test_wf_dec_twelve_shown : WellFormed (.dec 12#8 (0#8 :: exampleFrame)) = false := by decide

/-! ### Decoding: words written out bit by bit, from bit 98 down (30_encoding R71, R72; opcode_table.json) -/

-- CKSUM: bytes 10 and 9 ignored (ones here), byte 8 = 09 down to byte 0 = 01, len ignored (ones here), op 000.
theorem test_decode_cksum_bits :
    decode 0b111111111111111100001001000010000000011100000110000001010000010000000011000000100000000111111111000#99 =
      .ok (.cksum [1#8, 2#8, 3#8, 4#8, 5#8, 6#8, 7#8, 8#8, 9#8]) := by decide

-- ENC: bytes 10 to 8 ignored (ones here), L = 12345678, D = 41480000, len ignored (ones here), op 001.
theorem test_decode_enc_bits :
    decode 0b111111111111111111111111000100100011010001010110011110000100000101001000000000000000000011111111001#99 =
      .ok (.enc 0x41480000#32 0x12345678#32) := by decide

-- DEC of two bytes, 55 and AA: the bytes from 2 up ignored (ones here), n = 2, op 010.
theorem test_decode_dec_bits :
    decode 0b111111111111111111111111111111111111111111111111111111111111111111111111101010100101010100000010010#99 =
      .ok (.dec 2#8 [0x55#8, 0xAA#8]) := by decide

-- FEED 55: everything above byte 0 ignored (zero here), len ignored (ones here), op 011; 2AFFB of 95_test_vectors part 3.
theorem test_decode_feed_bits : decode 0b0101010111111111011#99 = .ok (.feed 0x55#8) := by decide

-- CLEAR with one ignored bit set, op 100.
theorem test_decode_clear_bits : decode 0b1000100#99 = .ok .clear := by decide

-- 95_test_vectors part 3: "A command word with op = 5, 6 or 7, for example 0x5, has no defined response".
theorem test_decode_reserved : decode 0x5#99 = .error (.reservedOpcode 5#3) := by decide

-- 95_test_vectors part 3, V-DEC-06: n = 22, the first eleven bytes presented.
theorem test_decode_dec_22 : decodeTableWord 99 0x55388000009620A400002A8B2 = some (.dec 22#8 exampleFrame) := by decide

/-! ### Encoding: the words of 95_test_vectors part 3 -/

theorem test_encode_cksum : encode (.cksum [1#8, 2#8, 4#8, 8#8, 0x10#8, 0x20#8, 0x40#8, 0x80#8, 0#8]) = 0x4020100804020100800#99 := by
  decide -- V-CK-06
theorem test_encode_enc : encode (.enc 0x55555555#32 0xAAAAAAAA#32) = 0x555555552AAAAAAA801#99 := by decide -- V-ENC-09
theorem test_encode_dec : encode (.dec 10#8 (exampleFrame.take 10)) = 0x388000009620A400002A852#99 := by decide -- V-DEC-04
theorem test_encode_feed : encode (.feed 0xAB#8) = 0x55803#99 := by decide -- V-RX-05
theorem test_encode_clear : encode .clear = 0x4#99 := by decide -- V-RX-11

/-! ### One step of each operation -/

-- V-CK-12: the fold may equal the end marker.
theorem test_cksum_end_marker :
    seen (step (State.reset.withFetchWord 99 (encode (.cksum [0x55#8, 0#8, 0#8, 0x80#8, 0xFF#8, 0#8, 0#8, 0#8, 0x80#8])).toNat)) =
      some ([], [0xAA#91 <<< 3]) := by decide

-- V-CK-06: byte 0 need not be the start marker.
theorem test_cksum_each_bit : seen (step (State.reset.withFetchWord 104 0x4020100804020100800)) = some ([], [0x7F8#91]) := by decide

-- V-ENC-03: a quiet NaN and -1 pass unchanged.
theorem test_enc_nan : seen (step (State.reset.withFetchWord 104 0x7FFFFFFFBFE00000001)) = some ([], [0x55757FFFFFFFBFE000002A8#91]) := by
  decide

-- V-ENC-08: the byte order of L.
theorem test_enc_byte_order :
    serialize 0x00000001#32 0x12345678#32 =
      [0x55#8, 0x01#8, 0#8, 0#8, 0#8, 0x78#8, 0x56#8, 0x34#8, 0x12#8, 0x5C#8, 0xAA#8] := by decide

-- V-DEC-13: end marker and checksum wrong, the end marker is checked first; V-RX-14: ACC untouched.
theorem test_dec_priority :
    seen (exec (.dec 11#8 [0x55#8, 0#8, 0#8, 0x48#8, 0x41#8, 0x2C#8, 1#8, 0#8, 0#8, 0#8, 0#8]) (holding [0x55#8, 0#8])) =
      some ([0x55#8, 0#8], [3#91]) := by decide

-- V-DEC-19: bytes 4 and 5 exchanged across the field border, accepted.
theorem test_dec_exchange :
    parse [0x55#8, 0#8, 0#8, 0x48#8, 0x2C#8, 0x41#8, 1#8, 0#8, 0#8, 0x71#8, 0xAA#8] = .ok { d := 0x2C480000#32, l := 0x141#32 } := by
  decide

-- V-RX-04: the eleventh byte completes a valid window.
theorem test_feed_emits : seen (step ((holding (exampleFrame.take 10)).withFetchWord 104 0x55003)) = some ([], [0x9620A400000#91]) := by
  decide

-- V-RX-06: the checksum fails, one byte goes and ten stay.
theorem test_feed_drops_one :
    seen (exec (.feed 0xAA#8) (holding [0x55#8, 0#8, 0#8, 0x48#8, 0x41#8, 0x2C#8, 1#8, 0#8, 0#8, 0x70#8])) =
      some ([0#8, 0#8, 0x48#8, 0x41#8, 0x2C#8, 1#8, 0#8, 0#8, 0x70#8, 0xAA#8], [4#91]) := by decide

-- V-RX-11: held bytes go unjudged.
theorem test_clear : seen (step ((holding (exampleFrame.take 10)).withFetchWord 104 0x4)) = some ([], [0#91]) := by decide

-- 00_scope R13 with the values 95_test_vectors prints: 12.5 = 0xC80000 * 2^-20 (V-SRC-01), the least subnormal 2^-149 (V-ENC-08).
theorem test_f32_twelve_and_a_half : f32 0x41480000#32 = .finite false 0xC80000 (-20) := by decide
theorem test_f32_least_subnormal : f32 0x00000001#32 = .finite false 1 (-149) := by decide
-- V-ENC-07: L = -300.
theorem test_s32_negative : s32 0xFFFFFED4#32 = -300 := by decide

/-! ### Witnesses: each statement's hypotheses are met together, each clause at a boundary of its range -/

theorem witness_DecodeEncodeRoundTrip : WellFormed (.dec 255#8 exampleFrame) = true ∧ WellFormed (.dec 0#8 []) = true := by decide
theorem witness_DecodedIsWellFormed : decode 0x2#99 = .ok (.dec 0#8 []) := by decide
theorem witness_IgnoredBitsDoNotMatter :
    0x2A803#99 &&& usedBits 0x2A803#99 = 0x2AFFB#99 &&& usedBits 0x2A803#99 ∧
    0x52#99 &&& usedBits 0x52#99 = 0x852#99 &&& usedBits 0x52#99 := by decide
theorem witness_ReservedOpcodeRefused :
    5 ≤ ((0x5#99 : CmdWord).extractLsb' 0 3).toNat ∧ 5 ≤ ((0x7#99 : CmdWord).extractLsb' 0 3).toNat := by decide
theorem witness_StepRunsDecodedOperation :
    (presentCommand 0x4#99 State.reset).commands = 0x4#99 :: [] ∧ decode 0x4#99 = .ok .clear := by decide
theorem witness_StepWithoutCommand : State.reset.commands = [] := rfl
theorem witness_PortRunsScript :
    (∀ i ∈ [Instr.feed 0x55#8, .clear], WellFormed i = true) ∧
    (State.mk [] [0x2A803#99, 0x4#99, 0x5#99] []).commands = [Instr.feed 0x55#8, .clear].map encode ++ [0x5#99] := by decide
theorem witness_QuiescentInvariant :
    Quiescent (presentCommand 0x4#99 (holding (exampleFrame.take 10))) ∧
    step (presentCommand 0x4#99 (holding (exampleFrame.take 10))) = .next { acc := [], commands := [], responses := [.clear] } :=
  ⟨by simp [Quiescent, holding, exampleFrame], rfl⟩
theorem witness_StatusesInvariant :
    StatusesProduced (presentCommand 0x4#99 { acc := [], commands := [], responses := [.feed .pending] }) ∧
    step (presentCommand 0x4#99 { acc := [], commands := [], responses := [.feed .pending] }) =
      .next { acc := [], commands := [], responses := [.feed .pending, .clear] } :=
  ⟨by simp [StatusesProduced, presentCommand, statusOf]; decide, rfl⟩
theorem witness_CapacityInvariant :
    (presentCommand 0x4#99 (holding exampleFrame)).acc.length ≤ Config.accCap ∧
    step (presentCommand 0x4#99 (holding exampleFrame)) = .next { acc := [], commands := [], responses := [.clear] } ∧
    (List.replicate Config.accCap (0#8 : Byte)).length ≤ Config.accCap :=
  ⟨Config.eleven_le_accCap, rfl, by simp⟩
theorem witness_StatusOutputShowsLength : Quiescent (holding (exampleFrame.take 10)) := by
  simp [Quiescent, holding, exampleFrame]
theorem witness_AccPushRule : exampleFrame.length = 11 ∧ (exampleFrame.take 10).length ≠ 11 := by decide
theorem witness_ReadAndDropByOffset : 0 + 11 ≤ exampleFrame.length ∧ exampleFrame.length < 1 + 11 := by decide
theorem witness_CksumOrderIndependent : [0x55#8, 1#8, 2#8].Perm [2#8, 1#8, 0x55#8] := by decide
theorem witness_SingleBitSensitivity :
    (10 < exampleFrame.length ∧ 7 < 8) ∧ (validFrame exampleFrame = true ∧ 1 ≤ 9 ∧ 9 ≤ 9 ∧ 7 < 8) := by decide
theorem witness_UndetectedCorruptions :
    (exampleFrame.take 10).length = 10 ∧ (List.replicate 10 (0x08#8 : Byte)).length = 10 ∧ passesCheck (exampleFrame.take 10) :=
  ⟨by decide, by decide, by unfold passesCheck; decide⟩
theorem witness_ChecksumCheckForms : exampleFrame.getD 0 0#8 = 0x55#8 := by decide
theorem witness_ChecksumFromPayload :
    (validFrame (serialize 0#32 0#32) = true ∧ xorfold (((serialize 0#32 0#32).drop 1).take 8) = 0x00#8) ∧
    (validFrame (serialize 0xFF#32 0#32) = true ∧ xorfold (((serialize 0xFF#32 0#32).drop 1).take 8) = 0xFF#8) := by decide
theorem witness_EncFramesValidAndDistinct :
    exec (.enc 1#32 2#32) State.reset = exec (.enc 1#32 2#32) State.reset := rfl
theorem witness_DecResult :
    12#8 ≠ 11#8 ∧ 10#8 ≠ 11#8 ∧ (exampleFrame.take 10).length ≠ 11 ∧ (0#8 :: exampleFrame).length ≠ 11 := by decide
theorem witness_DecPortAgreesWithWholeOperand :
    (List.replicate 255 (0#8 : Byte)).length ≤ 255 ∧ 255 < (List.replicate 256 (0#8 : Byte)).length := by
  simp only [List.length_replicate]
  omega
theorem witness_ReadingFromPayload :
    parse [0x55#8, 0#8, 0#8, 0x48#8, 0x41#8, 0x2C#8, 1#8, 0#8, 0#8, 0x71#8, 0xAA#8] = .ok { d := 0x41480000#32, l := 0x12C#32 } := by
  decide
theorem witness_DecEncRoundTrip :
    exec (.dec 11#8 exampleFrame) State.reset =
      .next { State.reset with responses := State.reset.responses ++ [.dec (.ok { d := 0x41480000#32, l := 0x12C#32 })] } := rfl
theorem witness_MarkerRejection :
    ((0xAA#8 :: exampleFrame.drop 1).length = 11 ∧ (0xAA#8 :: exampleFrame.drop 1)[0]? ≠ some 0x55#8) ∧
    ((exampleFrame.take 10 ++ [0x55#8]).length = 11 ∧ (exampleFrame.take 10 ++ [0x55#8])[0]? = some 0x55#8 ∧
      (exampleFrame.take 10 ++ [0x55#8])[10]? ≠ some 0xAA#8) := by decide
theorem witness_SingleBitCorruptionRejected : validFrame exampleFrame = true ∧ 0 < 11 ∧ 10 < 11 ∧ 7 < 8 := by decide
theorem witness_PayloadExchangeUndetected : validFrame exampleFrame = true ∧ 1 ≤ 1 ∧ 1 ≤ 8 ∧ 1 ≤ 8 ∧ 8 ≤ 8 := by decide
theorem witness_FeedResult :
    (holding (exampleFrame.take 9)).acc.length ≤ 9 ∧
    ((holding (exampleFrame.take 10)).acc.length = 10 ∧
      parse ((holding (exampleFrame.take 10)).acc ++ [0xAA#8]) = .ok { d := 0x41480000#32, l := 0x12C#32 }) ∧
    ((holding (exampleFrame.take 10)).acc.length = 10 ∧
      parse ((holding (exampleFrame.take 10)).acc ++ [0xAB#8]) = .err .badEndMarker) := by decide
theorem witness_FeedDropsNonMarkerHead :
    (holding (0xFF#8 :: exampleFrame.take 9)).acc = 0xFF#8 :: exampleFrame.take 9 ∧ (exampleFrame.take 9).length = 9 ∧ 0xFF#8 ≠ 0x55#8 := by
  decide
theorem witness_FeedEmitsValidWindow :
    (holding (exampleFrame.take 10)).acc.length = 10 ∧
    validFrame ((holding (exampleFrame.take 10)).acc ++ [0xAA#8]) = true := by decide
theorem witness_FeedDropsFalseStart :
    (holding (0x55#8 :: exampleFrame.take 9)).acc = 0x55#8 :: exampleFrame.take 9 ∧ (exampleFrame.take 9).length = 9 ∧
    validFrame ((holding (0x55#8 :: exampleFrame.take 9)).acc ++ [0xAA#8]) = false := by decide
theorem witness_FeedAlwaysEnds : 11 ≤ exampleFrame.length ∧ exampleFrame.length - 10 ≤ 1 := by decide
theorem witness_CapacityIndependence : 11 ≤ 11 ∧ Quiescent (holding (exampleFrame.take 10)) :=
  ⟨by decide, by simp [Quiescent, holding, exampleFrame]⟩
theorem witness_PhaseTransitions :
    phase (holding []).acc = .fill 0 ∧ phase (holding (exampleFrame.take 9)).acc = .fill 9 ∧
    phase (holding (exampleFrame.take 10)).acc = .armed := by decide
theorem witness_ResponseWords : 0 < 11 ∧ 10 < 11 := by decide
theorem witness_StatelessUnitsDoNotInterfere : reachesAcc (.enc 0#32 0#32) = false := by decide
theorem witness_FeedsComputeScan : (exampleFrame.take 10).length ≤ 10 := by decide
theorem witness_ChunkIndependence : Quiescent (holding (exampleFrame.take 10)) := by simp [Quiescent, holding, exampleFrame]
theorem witness_Resynchronization :
    State.reset.acc = [] ∧ ∀ k, k < [0xFF#8, 0x55#8].length →
      validFrame ((([0xFF#8, 0x55#8] ++ serialize 0x41480000#32 0x12C#32).drop k).take 11) = false := by decide
/-- The corrupted region of 95_test_vectors program P3. -/
def corruptRegion : List Byte := [0x55#8, 0x00#8, 0x00#8, 0x48#8, 0x41#8, 0x2C#8, 0x01#8, 0x00#8, 0x00#8, 0x70#8, 0xAA#8]
theorem witness_EmbeddedMarkerTrap :
    (State.reset.acc = [] ∧ corruptRegion.length = 11 ∧ corruptRegion[0]? = some 0x55#8 ∧ corruptRegion[10]? = some 0xAA#8 ∧
      corruptRegion[9]? ≠ some (xorfold (corruptRegion.take 9))) ∧
    (∀ k, 1 ≤ k → k ≤ 10 →
      validFrame (((corruptRegion ++ serialize 0x41C80000#32 0x3FF#32).drop k).take 11) = false) ∧
    (∀ x ∈ corruptRegion.drop 1, x ≠ 0x55#8) := by
  refine ⟨by decide, fun k _ hk => ?_, by decide⟩
  interval_cases k <;> first | omega | decide
theorem witness_PartialDelivery :
    State.reset.acc = [] ∧ 10 ≤ 10 ∧ (holding ((serialize 1#32 2#32).take 10)).acc = (serialize 1#32 2#32).take 10 := by decide
theorem witness_LoopbackEmitsReading : State.reset.acc = [] := rfl

end Sys2Proof.Tests
end

section
/-! The byte order of the two 32-bit fields (00_scope R12; 20_memory R45). -/

namespace Sys2Proof.Machine

/-- Appending a low byte is one Horner step of the little-endian sum. -/
theorem toNat_append_byte {n : Nat} (hi : BitVec n) (lo : Byte) :
    (hi ++ lo).toNat = lo.toNat + 256 * hi.toNat := by
  rw [BitVec.toNat_append, ← Nat.shiftLeft_add_eq_or_of_lt lo.isLt, Nat.shiftLeft_eq]
  omega

/-- R12: `unle32` as a sum, its first byte the least significant. -/
theorem unle32_toNat (s0 s1 s2 s3 : Byte) :
    (unle32 s0 s1 s2 s3).toNat =
      s0.toNat + 256 * s1.toNat + 65536 * s2.toNat + 16777216 * s3.toNat := by
  have horner : (unle32 s0 s1 s2 s3).toNat =
      s0.toNat + 256 * (s1.toNat + 256 * (s2.toNat + 256 * s3.toNat)) := by
    unfold unle32
    rw [toNat_append_byte, toNat_append_byte, toNat_append_byte]
  omega

/-- R12: the four bytes of a word, joined again: each append widens the slice from bit 0 of `v` upwards. -/
theorem unle32_extractLsb' (v : Word32) :
    unle32 (v.extractLsb' 0 8) (v.extractLsb' 8 8) (v.extractLsb' 16 8) (v.extractLsb' 24 8) = v := by
  unfold unle32
  rw [BitVec.extractLsb'_append_extractLsb'_eq_extractLsb' (show 24 = 16 + 8 from rfl),
    BitVec.extractLsb'_append_extractLsb'_eq_extractLsb' (show 16 = 8 + 8 from rfl),
    BitVec.extractLsb'_append_extractLsb'_eq_extractLsb' (show 8 = 0 + 8 from rfl)]
  exact BitVec.extractLsb'_eq_self

/-- R12: byte `k` of the word is `s_k`: the appended bytes below it are skipped, those above it are cut off. -/
@[simp] theorem le32_unle32 (s0 s1 s2 s3 : Byte) : le32 (unle32 s0 s1 s2 s3) = [s0, s1, s2, s3] := by
  have byte0 : (unle32 s0 s1 s2 s3).extractLsb' 0 8 = s0 := BitVec.extractLsb'_append_eq_right
  have byte1 : (unle32 s0 s1 s2 s3).extractLsb' 8 8 = s1 :=
    (BitVec.extractLsb'_append_eq_of_le (by decide)).trans BitVec.extractLsb'_append_eq_right
  have byte2 : (unle32 s0 s1 s2 s3).extractLsb' 16 8 = s2 :=
    (BitVec.extractLsb'_append_eq_of_le (by decide)).trans
      ((BitVec.extractLsb'_append_eq_of_le (by decide)).trans BitVec.extractLsb'_append_eq_right)
  have byte3 : (unle32 s0 s1 s2 s3).extractLsb' 24 8 = s3 :=
    (BitVec.extractLsb'_append_eq_of_le (by decide)).trans
      ((BitVec.extractLsb'_append_eq_of_le (by decide)).trans BitVec.extractLsb'_append_eq_left)
  simp only [le32, byte0, byte1, byte2, byte3]

/-- Settles O19: `le32` lists the four bytes by definition; the inverse laws and the sum are the lemmas above. -/
theorem littleEndianFields : Obligations.LittleEndianFields :=
  ⟨fun _ => rfl, unle32_extractLsb', le32_unle32, unle32_toNat⟩

end Sys2Proof.Machine
end

section
/-! Bounds on the accumulator: the invariants of 10_state R22 and R23, and the status output of R29. -/

namespace Sys2Proof.Machine

/-- R23, R129: an operation that does not leave `ACC` as it was leaves at most ten bytes in it. -/
theorem exec_acc_eq_or_length_le {i : Instr} {s t : State} (h : exec i s = .next t) :
    t.acc = s.acc ∨ t.acc.length ≤ 10 := by
  rcases exec_cases i s with ⟨b, ev, m, -, hm, hx⟩ | ⟨-, hx⟩ | ⟨r, -, hx⟩ <;>
    (rw [hx] at h; cases h)
  · exact .inr hm
  · exact .inr (Nat.zero_le 10)
  · exact .inl rfl

/-- The same of a step, which runs one operation or none. -/
theorem step_acc_eq_or_length_le {s t : State} (h : step s = .next t) :
    t.acc = s.acc ∨ t.acc.length ≤ 10 := by
  rcases step_cases s with ⟨-, hs⟩ | ⟨w, rest, i, -, -, hs⟩ | ⟨w, rest, op, -, -, hs⟩ <;> rw [hs] at h
  · cases h
    exact .inl rfl
  · exact exec_acc_eq_or_length_le (s := { s with commands := rest }) h
  · cases h

/-- Every bound of at least ten bytes is kept by every step. -/
theorem step_keeps_length_le {n : Nat} (hn : 10 ≤ n) {s t : State} (hs : s.acc.length ≤ n)
    (h : step s = .next t) : t.acc.length ≤ n := by
  rcases step_acc_eq_or_length_le h with heq | hle
  · rwa [heq]
  · exact hle.trans hn

/-- R42: a full accumulator loses a byte before the append, so `AccPush` does not exceed the capacity. -/
theorem accPush_length_le {cap : Nat} (hc : 0 < cap) (b : Byte) {m : Memory} (hm : m.length ≤ cap) :
    (accPush cap b m).length ≤ cap := by
  by_cases hfull : m.length = cap
  · rw [accPush_full b hfull, List.length_append, accDrop_length, List.length_singleton]
    omega
  · rw [accPush_room b hfull, List.length_append, List.length_singleton]
    omega

/-- Settles O12: ten is a bound that every step keeps. -/
theorem quiescentInvariant : Obligations.QuiescentInvariant :=
  fun _ _ hs h => step_keeps_length_le (Nat.le_refl 10) hs h

/-- Settles O14: `ACC_CAP` is at least 11, so steps keep it as a bound, and `AccPush` keeps it by dropping first. -/
theorem capacityInvariant : Obligations.CapacityInvariant := by
  have hcap := Config.eleven_le_accCap
  exact ⟨fun _ _ hs h => step_keeps_length_le (by omega) hs h, fun b _ hm => accPush_length_le (by omega) b hm⟩

/-- Settles O15: at reset nothing is held and no response is recorded. -/
theorem invariantsAtReset : Obligations.InvariantsAtReset :=
  ⟨Nat.zero_le 10, fun _ hr => absurd hr List.not_mem_nil, Nat.zero_le _⟩

/-- Settles O16: a length of at most ten is not cut off by the four bits of the output. -/
theorem statusOutputShowsLength : Obligations.StatusOutputShowsLength := by
  intro s hs
  have hlt : s.acc.length < 2 ^ 4 := Nat.lt_of_le_of_lt hs (by decide)
  rw [accLenOut, accLen, BitVec.toNat_ofNat, Nat.mod_eq_of_lt hlt]

end Sys2Proof.Machine
end

section
/-! The phases of the synchronizer and what a FEED does in each (10_state R24). -/

namespace Sys2Proof.Machine

theorem phase_eq_fill_iff {m : Memory} {k : Nat} : phase m = .fill k ↔ m.length = k ∧ k ≤ 9 := by
  unfold phase
  split_ifs with hlt hten
  · rw [Phase.fill.injEq]
    omega
  · simp only [false_iff]
    omega
  · simp only [false_iff]
    omega

theorem phase_eq_armed_iff {m : Memory} : phase m = .armed ↔ m.length = 10 := by
  unfold phase
  split_ifs with hlt hten
  · simp only [false_iff]
    omega
  · simp only [hten]
  · simp only [hten]

/-- R103: the valid sequences are those that `DEC` accepts. -/
theorem validByDec_eq_validFrame (q : List Byte) : validByDec q = validFrame q := by
  by_cases hlen : q.length = 11
  · obtain ⟨s0, s1, s2, s3, s4, s5, s6, s7, s8, s9, s10, rfl⟩ := eleven_bytes hlen
    rcases parse_eleven_cases (s0 := s0) (s1 := s1) (s2 := s2) (s3 := s3) (s4 := s4) (s5 := s5) (s6 := s6)
      (s7 := s7) (s8 := s8) (s9 := s9) (s10 := s10) with
      ⟨h0, hp⟩ | ⟨h0, h10, hp⟩ | ⟨h0, h10, h9, hp⟩ | ⟨h0, h10, h9, hp⟩ <;>
      rw [validByDec, hp]
    · simp [validFrame, h0]
    · simp [validFrame, h10]
    · simp [validFrame, Ne.symm h9]
    · simp [validFrame, h0, h10, ← h9]
  · have hbad : validFrame q = false := by
      unfold validFrame
      split
      · exact absurd rfl hlen
      · rfl
    rw [validByDec, parse_of_length_ne hlen, hbad]

theorem validFrame_of_parse_ok {q : List Byte} {r : Reading} (h : parse q = .ok r) : validFrame q = true := by
  rw [← validByDec_eq_validFrame, validByDec, h]

theorem validFrame_of_parse_err {q : List Byte} {e : FrameError} (h : parse q = .err e) : validFrame q = false := by
  rw [← validByDec_eq_validFrame, validByDec, h]

/-- R122: `FEED` on at most nine bytes appends and answers `Pending`. -/
theorem exec_feed_fill (b : Byte) {s : State} (h : s.acc.length ≤ 9) :
    exec (.feed b) s = .next { s with acc := s.acc ++ [b], responses := s.responses ++ [.feed .pending] } :=
  feedWith_fill Config.eleven_le_accCap b h

/-- R123, R129: `FEED` on ten bytes judges the window that its byte completes. -/
theorem exec_feed_judge (b : Byte) {s : State} (h : s.acc.length = 10) :
    exec (.feed b) s =
      .next { s with acc := (judge (s.acc ++ [b]) (s.acc ++ [b])).2,
                     responses := s.responses ++ [.feed (judge (s.acc ++ [b]) (s.acc ++ [b])).1] } :=
  feedWith_judge Config.eleven_le_accCap b h

/-- The phase after one more byte: `FILL(k)` goes to `FILL(k+1)`, the tenth byte to `ARMED`. -/
theorem phase_append_byte (b : Byte) {m : Memory} (h : m.length ≤ 9) :
    phase (m ++ [b]) = if m.length = 9 then .armed else .fill (m.length + 1) := by
  have hlen : (m ++ [b]).length = m.length + 1 := List.length_append
  split_ifs with hnine
  · exact phase_eq_armed_iff.mpr (by omega)
  · exact phase_eq_fill_iff.mpr ⟨hlen, by omega⟩

/-- Settles O46: in `FILL(k)` the byte is appended; in `ARMED` the window is judged, and a valid one leaves nothing of its
eleven bytes, any other leaves ten. -/
theorem phaseTransitions : Obligations.PhaseTransitions := by
  intro s b
  constructor
  · intro k hk
    obtain ⟨rfl, hle⟩ := phase_eq_fill_iff.mp hk
    exact ⟨_, exec_feed_fill b hle, phase_append_byte b hle, rfl⟩
  · intro harmed
    have hten := phase_eq_armed_iff.mp harmed
    have hlen : (s.acc ++ [b]).length = 11 := by rw [List.length_append, hten, List.length_singleton]
    refine ⟨_, exec_feed_judge b hten, ?_⟩
    rcases judge_cases (s.acc ++ [b]) (s.acc ++ [b]) with ⟨r, hp, hj⟩ | ⟨e, hp, hj⟩ <;> rw [hj]
    · have hempty : (s.acc ++ [b]).drop 11 = [] := List.drop_eq_nil_of_le hlen.le
      exact .inl ⟨validFrame_of_parse_ok hp, by rw [hempty]; rfl, r, rfl⟩
    · have hdrop : ((s.acc ++ [b]).drop 1).length = 10 := by rw [List.length_drop, hlen]
      exact .inr ⟨validFrame_of_parse_err hp, phase_eq_armed_iff.mpr hdrop, e, rfl⟩

end Sys2Proof.Machine
end

section
/-! CKSUM, ENC and DEC beside the synchronizer (10_state R25; 20_memory R50). -/

namespace Sys2Proof.Machine

/-- An operation that does not reach `ACC` gives one response, the same from every state, and changes nothing else. -/
theorem exec_of_not_reachesAcc {i : Instr} (h : reachesAcc i = false) :
    ∃ r, fromReceiver r = false ∧ ∀ s : State, exec i s = .next { s with responses := s.responses ++ [r] } := by
  cases i with
  | cksum bytes => exact ⟨.cksum (xorfold bytes), rfl, fun _ => rfl⟩
  | enc d l => exact ⟨.enc (serialize d l), rfl, fun _ => rfl⟩
  | dec len shown => exact ⟨.dec (parseShown len shown), rfl, fun _ => rfl⟩
  | feed b => cases h
  | clear => cases h

/-- What `FEED` and `CLEAR` leave in `ACC` and what they answer depends on `ACC` alone. -/
theorem exec_of_reachesAcc {i : Instr} (h : reachesAcc i = true) (a : Memory) :
    ∃ m r, ∀ s : State, s.acc = a → exec i s = .next { s with acc := m, responses := s.responses ++ [r] } := by
  cases i with
  | cksum bytes => cases h
  | enc d l => cases h
  | dec len shown => cases h
  | feed b =>
    obtain ⟨ev, m, hd, -, -⟩ := drain_spec (P := fun _ => True) (fun _ _ _ => trivial) (ev := .pending)
      (Nat.le_refl (accPush Config.accCap b a).length) trivial
    refine ⟨m, .feed ev, fun s hs => ?_⟩
    simp only [exec, execFeed, feedWith, hs, hd, respond_eq]
  | clear => exact ⟨[], .clear, fun _ _ => rfl⟩

/-- Two states that `FEED` and `CLEAR`, and a reader of their responses, cannot tell apart. -/
def SameReceiverView (s s' : State) : Prop :=
  s'.acc = s.acc ∧ s'.responses.filter fromReceiver = s.responses.filter fromReceiver

/-- From states with one receiver view, a script and its `FEED`s and `CLEAR`s alone complete in states with one receiver
view: an operation left out changes no view, one kept changes both alike. -/
theorem issue_filter_reachesAcc (p : List Instr) {s s' : State} (h : SameReceiverView s s') :
    ∃ t t', issue p s = .next t ∧ issue (p.filter reachesAcc) s' = .next t' ∧ SameReceiverView t t' := by
  induction p generalizing s s' with
  | nil => exact ⟨s, s', rfl, rfl, h⟩
  | cons i p ih =>
    obtain ⟨hacc, hresp⟩ := h
    cases hi : reachesAcc i with
    | false =>
      obtain ⟨r, hr, hx⟩ := exec_of_not_reachesAcc hi
      rw [issue_cons_next (hx s), List.filter_cons_of_neg (by simp [hi])]
      exact ih ⟨hacc, by simp [hresp, hr]⟩
    | true =>
      obtain ⟨m, r, hx⟩ := exec_of_reachesAcc hi s.acc
      rw [issue_cons_next (hx s rfl), List.filter_cons_of_pos hi, issue_cons_next (hx s' hacc)]
      exact ih ⟨rfl, by simp [hresp]⟩

/-- Settles O49: the responses by `exec_of_not_reachesAcc`, the scripts by comparing both runs from the same state. -/
theorem statelessUnitsDoNotInterfere : Obligations.StatelessUnitsDoNotInterfere := by
  constructor
  · intro i hi
    obtain ⟨r, -, hx⟩ := exec_of_not_reachesAcc hi
    exact ⟨r, hx⟩
  · intro p s
    obtain ⟨t, t', ht, ht', hacc, hresp⟩ := issue_filter_reachesAcc p (s := s) ⟨rfl, rfl⟩
    exact ⟨t, t', ht, ht', hacc, hresp⟩

end Sys2Proof.Machine
end

section
/-! An encoded operation decodes to itself (30_encoding R71, R72, R79). -/

namespace Sys2Proof.Machine

/-- R72: the first of two packed little-endian fields is bits 31 to 0. -/
theorem packLanes_le32_extract_low (d l : Word32) : (packLanes (le32 d ++ le32 l)).extractLsb' 0 32 = d := by
  apply BitVec.eq_of_getLsbD_eq
  intro i hi
  simp [packLanes_le32_getLsbD, hi]

/-- R72: the second is bits 63 to 32. -/
theorem packLanes_le32_extract_high (d l : Word32) : (packLanes (le32 d ++ le32 l)).extractLsb' 32 32 = l := by
  apply BitVec.eq_of_getLsbD_eq
  intro i hi
  simp [packLanes_le32_getLsbD, hi, show 32 + i < 64 by omega]

/-- The opcode field selects the operation, and each format's fields give its operands back. -/
theorem decode_encode {i : Instr} (h : WellFormed i = true) : decode (encode i) = .ok i := by
  cases i with
  | cksum bytes =>
    obtain ⟨hop, -, hdata⟩ := Laws.EncodedFields.cksum bytes
    have hbytes : lanes (packLanes bytes) 9 = bytes := lanes_packLanes (by simpa [WellFormed] using h) (by decide)
    simp [decode, hop, hdata, opcodeOf, operandData, hbytes]
  | enc d l =>
    obtain ⟨hop, -, hdata⟩ := Laws.EncodedFields.enc d l
    simp [decode, hop, hdata, opcodeOf, operandData, packLanes_le32_extract_low, packLanes_le32_extract_high]
  | dec len shown =>
    obtain ⟨hop, hlen, hdata⟩ := Laws.EncodedFields.dec len shown
    have hshown : lanes (packLanes shown) (min len.toNat 11) = shown :=
      lanes_packLanes (by simpa [WellFormed] using h) (Nat.min_le_right _ _)
    simp [decode, hop, hlen, hdata, opcodeOf, operandLen, operandData, hshown]
  | feed b =>
    obtain ⟨hop, -, hdata⟩ := Laws.EncodedFields.feed b
    simp [decode, hop, hdata, opcodeOf, operandData, lane_packLanes_zero]
  | clear =>
    obtain ⟨hop, -, -⟩ := Laws.EncodedFields.clear
    simp [decode, hop, opcodeOf]

end Sys2Proof.Machine
end

section
/-! Scripts at the command port (20_memory R52; 10_state R27; log entry 1), and `AccPush` (20_memory R42). -/

namespace Sys2Proof.Machine

/-- The waiting commands have no part in an operation: what it leaves in `ACC` and what it answers are the same whatever
waits, and what waits stays. -/
theorem exec_with_commands (i : Instr) (s : State) :
    ∃ m r, ∀ cs : List CmdWord,
      exec i { s with commands := cs } = .next { acc := m, commands := cs, responses := s.responses ++ [r] } := by
  cases hi : reachesAcc i with
  | false =>
    obtain ⟨r, -, hx⟩ := exec_of_not_reachesAcc hi
    exact ⟨s.acc, r, fun cs => hx { s with commands := cs }⟩
  | true =>
    obtain ⟨m, r, hx⟩ := exec_of_reachesAcc hi s.acc
    exact ⟨m, r, fun cs => hx { s with commands := cs } rfl⟩

/-- With the word of a well-formed operation in front at the port, a step runs that operation. -/
theorem step_of_encode {i : Instr} {s : State} {rest : List CmdWord} (hi : WellFormed i = true)
    (hs : s.commands = encode i :: rest) : step s = exec i { s with commands := rest } := by
  simp [step, takeCommand_cons hs, decode_encode hi]

/-- A step that completes is the first of the steps of a run. -/
theorem run_succ_of_step {M : Host.Core} {k : Nat} {s t : M.State} (h : M.step s = .next t) :
    M.run (k + 1) s = M.run k t := by
  simp [Host.Core.run, h]

/-- Settles O8, by induction on the script: the step over the first word leaves what `exec` leaves, and the other words
wait as before, so the rest of the script runs over them. -/
theorem portRunsScript : Obligations.PortRunsScript := by
  intro p rest
  induction p with
  | nil =>
    intro s _ hs
    obtain rfl : s.commands = rest := hs
    rfl
  | cons i p ih =>
    intro s hwf hs
    obtain ⟨hi, hp⟩ := List.forall_mem_cons.mp hwf
    obtain ⟨m, r, hx⟩ := exec_with_commands i s
    have hstep : step s = .next { acc := m, commands := p.map encode ++ rest, responses := s.responses ++ [r] } :=
      (step_of_encode hi hs).trans (hx _)
    rw [List.length_cons, run_succ_of_step (M := core) hstep, issue_cons_next (hx rest)]
    exact ih _ hp rfl

/-- Settles O17: the two branches of `AccPush`, and `AccDrop(1)` loses the oldest byte. -/
theorem accPushRule : Obligations.AccPushRule :=
  fun _ b _ => ⟨accPush_full b, accPush_room b⟩

end Sys2Proof.Machine
end

section
/-! The round trip of command words (30_encoding R72, R82), and which statuses a response shows (30_encoding R77). -/

namespace Sys2Proof.Machine

/-- Settles O2: each format's fields give its operands back. -/
theorem decodeEncodeRoundTrip : Obligations.DecodeEncodeRoundTrip :=
  fun _ h => decode_encode h

/-- R77 for one response: its status is neither that of `TransportClosed` nor the reserved one. -/
def StatusProduced (r : Response) : Prop := statusOf r ≠ 0b101#3 ∧ statusOf r ≠ 0b110#3

theorem statusOk_produced : statusOk ≠ 0b101#3 ∧ statusOk ≠ 0b110#3 := by decide

theorem statusPending_produced : statusPending ≠ 0b101#3 ∧ statusPending ≠ 0b110#3 := by decide

theorem errorCode_produced {e : FrameError} (h : e ≠ .transportClosed) :
    errorCode e ≠ 0b101#3 ∧ errorCode e ≠ 0b110#3 := by
  cases e with
  | transportClosed => exact absurd rfl h
  | malformedLength | badStartMarker | badEndMarker | checksumMismatch => decide

theorem statusProduced_dec {x : DecResult} (h : x ≠ .err .transportClosed) : StatusProduced (.dec x) := by
  cases x with
  | ok r => exact statusOk_produced
  | err e => exact errorCode_produced fun he => h (he ▸ rfl)

theorem statusProduced_feed {ev : Event} (h : ev ≠ .drop .transportClosed) : StatusProduced (.feed ev) := by
  cases ev with
  | pending => exact statusPending_produced
  | emit r => exact statusOk_produced
  | drop e => exact errorCode_produced fun he => h (he ▸ rfl)

/-- R106 at the port: `DEC` does not answer with the error that no operation produces. -/
theorem parseShown_ne_transportClosed (len : BitVec 8) (shown : List Byte) :
    parseShown len shown ≠ .err .transportClosed := by
  unfold parseShown
  split_ifs
  · exact parse_ne_transportClosed shown
  · simp

/-- R128: a judged window is not reported with that error, since `DEC` does not answer with it. -/
theorem judge_ne_drop_transportClosed (w : List Byte) (m : Memory) : (judge w m).1 ≠ .drop .transportClosed := by
  rcases judge_cases w m with ⟨r, -, hj⟩ | ⟨e, hp, hj⟩ <;> rw [hj]
  · simp
  · intro he
    obtain rfl : e = .transportClosed := Event.drop.inj he
    exact parse_ne_transportClosed w hp

/-- R77: the one response that an operation appends shows a status that the block produces. -/
theorem exec_statusProduced (i : Instr) (s : State) :
    ∃ m r, exec i s = .next { acc := m, commands := s.commands, responses := s.responses ++ [r] } ∧
      StatusProduced r := by
  cases i with
  | cksum bytes => exact ⟨s.acc, .cksum (xorfold bytes), rfl, statusOk_produced⟩
  | enc d l => exact ⟨s.acc, .enc (serialize d l), rfl, statusOk_produced⟩
  | dec len shown =>
    exact ⟨s.acc, .dec (parseShown len shown), rfl, statusProduced_dec (parseShown_ne_transportClosed len shown)⟩
  | feed b =>
    obtain ⟨ev, m, hx, -, hev⟩ := feedWith_spec (P := (· ≠ .drop .transportClosed))
      (fun w m _ => judge_ne_drop_transportClosed w m) (by simp) Config.accCap b s
    exact ⟨m, .feed ev, hx, statusProduced_feed hev⟩
  | clear => exact ⟨[], .clear, rfl, statusOk_produced⟩

/-- An operation keeps R77: to the responses it appends one whose status is produced. -/
theorem exec_keeps_statusesProduced {i : Instr} {s t : State} (hs : StatusesProduced s) (h : exec i s = .next t) :
    StatusesProduced t := by
  obtain ⟨m, r, hx, hr⟩ := exec_statusProduced i s
  obtain rfl := Host.Outcome.next.inj (hx.symm.trans h)
  exact List.forall_mem_append.mpr ⟨hs, List.forall_mem_singleton.mpr hr⟩

/-- Settles O13: a step that completes runs one operation or none, and an operation keeps the responses' statuses. -/
theorem statusesInvariant : Obligations.StatusesInvariant := by
  intro s t hs h
  rcases step_cases s with ⟨-, hx⟩ | ⟨w, rest, i, -, -, hx⟩ | ⟨w, rest, op, -, -, hx⟩ <;> rw [hx] at h
  · exact Host.Outcome.next.inj h ▸ hs
  · exact exec_keeps_statusesProduced (s := { s with commands := rest }) hs h
  · cases h

end Sys2Proof.Machine
end

section
/-! The decoder, opcode by opcode, and the bits of a command word that it looks at (30_encoding R70, R72, R76, R78). -/

namespace Sys2Proof.Machine

/-- R70, R76: the opcodes of the table, and the reserved ones. -/
theorem opcode_cases (op : BitVec 3) :
    op = 0b000#3 ∨ op = 0b001#3 ∨ op = 0b010#3 ∨ op = 0b011#3 ∨ op = 0b100#3 ∨ 5 ≤ op.toNat := by
  revert op
  decide

theorem decode_cksum {w : CmdWord} (h : cmdOp w = 0b000#3) : decode w = .ok (.cksum (lanes (cmdData w) 9)) := by
  simp [decode, h]

theorem decode_enc {w : CmdWord} (h : cmdOp w = 0b001#3) :
    decode w = .ok (.enc ((cmdData w).extractLsb' 0 32) ((cmdData w).extractLsb' 32 32)) := by
  simp [decode, h]

theorem decode_dec {w : CmdWord} (h : cmdOp w = 0b010#3) :
    decode w = .ok (.dec (cmdLen w) (lanes (cmdData w) (min (cmdLen w).toNat 11))) := by
  simp [decode, h]

theorem decode_feed {w : CmdWord} (h : cmdOp w = 0b011#3) : decode w = .ok (.feed (lane (cmdData w) 0)) := by
  simp [decode, h]

theorem decode_clear {w : CmdWord} (h : cmdOp w = 0b100#3) : decode w = .ok .clear := by
  simp [decode, h]

/-- R76: an opcode of 5 or more is none of the table's five. -/
theorem decode_reserved {w : CmdWord} (h : 5 ≤ (cmdOp w).toNat) :
    decode w = .error (.reservedOpcode (cmdOp w)) := by
  have hne (op : BitVec 3) (hop : op.toNat < 5) : cmdOp w ≠ op := by
    rintro rfl
    omega
  simp [decode, hne]

/-- A step over a presented word depends on the word by what it decodes to. -/
theorem step_presentCommand_congr {w w' : CmdWord} (s : State) (h : decode w = decode w') :
    step (presentCommand w s) = step (presentCommand w' s) := by
  simp [step, takeCommand_presentCommand, h]

theorem step_presentCommand_reserved {w : CmdWord} {op : BitVec 3} (s : State)
    (h : decode w = .error (.reservedOpcode op)) :
    step (presentCommand w s) = .refused (.reservedOpcode op) := by
  simp [step, takeCommand_presentCommand, h]

/-- Settles O3: the decoder takes nine lanes for `CKSUM` and `min(n, 11)` for `DEC`. -/
theorem decodedIsWellFormed : Obligations.DecodedIsWellFormed := by
  intro w i hi
  rcases opcode_cases (cmdOp w) with h | h | h | h | h | h
  · obtain rfl := Except.ok.inj ((decode_cksum h).symm.trans hi)
    simp [WellFormed]
  · obtain rfl := Except.ok.inj ((decode_enc h).symm.trans hi)
    rfl
  · obtain rfl := Except.ok.inj ((decode_dec h).symm.trans hi)
    simp [WellFormed]
  · obtain rfl := Except.ok.inj ((decode_feed h).symm.trans hi)
    rfl
  · obtain rfl := Except.ok.inj ((decode_clear h).symm.trans hi)
    rfl
  · cases (decode_reserved h).symm.trans hi

/-- Settles O5: the decoder names the reserved opcode, and the step refuses it by that name. -/
theorem reservedOpcodeRefused : Obligations.ReservedOpcodeRefused :=
  fun s _ h => step_presentCommand_reserved s (decode_reserved h)

/-- Settles O1: each word read field by field. -/
theorem sampleWordsDecode : Obligations.SampleWordsDecode := by
  unfold Obligations.SampleWordsDecode
  decide

theorem cmdOp_and (v w : CmdWord) : cmdOp (v &&& w) = cmdOp v &&& cmdOp w := BitVec.extractLsb'_and

theorem cmdLen_and (v w : CmdWord) : cmdLen (v &&& w) = cmdLen v &&& cmdLen w := BitVec.extractLsb'_and

theorem cmdData_and (v w : CmdWord) : cmdData (v &&& w) = cmdData v &&& cmdData w := BitVec.extractLsb'_and

/-- R78: no bit of the opcode is ignored. -/
theorem cmdOp_usedBits (w : CmdWord) : cmdOp (usedBits w) = BitVec.allOnes 3 := by
  unfold usedBits
  split_ifs <;> exact cmdOp_cmdWord _ _ _

/-- Two `data` fields that agree on their low `n` bits agree on every field inside these. -/
theorem extractLsb'_eq_of_and_lowMask {x y : Lanes} {n lo k : Nat}
    (h : x &&& (BitVec.allOnes n).setWidth 88 = y &&& (BitVec.allOnes n).setWidth 88)
    (hk : lo + k ≤ n) (hn : n ≤ 88) : x.extractLsb' lo k = y.extractLsb' lo k := by
  apply BitVec.eq_of_getLsbD_eq
  intro i hi
  have hbit := congrArg (BitVec.getLsbD · (lo + i)) h
  simpa [hi, show lo + i < 88 by omega, show lo + i < n by omega] using hbit

theorem lanes_congr {x y : Lanes} {n : Nat} (h : ∀ i, i < n → lane x i = lane y i) : lanes x n = lanes y n :=
  List.map_congr_left fun i hi => h i (List.mem_range.mp hi)

/-- R79: `DEC` looks at no byte when the stated length is not 11. -/
theorem parseShown_of_len_ne {len : BitVec 8} (shown : List Byte) (h : len ≠ 11#8) :
    parseShown len shown = .err .malformedLength := by
  have hne : len.toNat ≠ 11 := fun he => h (BitVec.eq_of_toNat_eq he)
  simp [parseShown, hne]

theorem exec_dec (len : BitVec 8) (shown : List Byte) (s : State) :
    exec (.dec len shown) s = respond (.dec (parseShown len shown)) s := rfl

/-- R78 for `DEC`: two words of equal length, whose data agree where that length is 11, give the same step. -/
theorem step_presentCommand_dec {w w' : CmdWord} (s : State) (hw : cmdOp w = 0b010#3) (hw' : cmdOp w' = 0b010#3)
    (hlen : cmdLen w = cmdLen w') (hdata : cmdLen w = 11#8 → cmdData w = cmdData w') :
    step (presentCommand w s) = step (presentCommand w' s) := by
  rw [step_presentCommand s (decode_dec hw), step_presentCommand s (decode_dec hw'), exec_dec, exec_dec, ← hlen]
  by_cases h11 : cmdLen w = 11#8
  · rw [hdata h11]
  · rw [parseShown_of_len_ne _ h11, parseShown_of_len_ne _ h11]

/-- R72: `CKSUM` takes data bytes 0 to 8. -/
theorem cmdData_usedBits_cksum {w : CmdWord} (h : cmdOp w = 0b000#3) :
    cmdData (usedBits w) = (BitVec.allOnes 72).setWidth 88 := by
  simp [usedBits, h, cmdData_cmdWord]

/-- R72: `ENC` takes data bytes 0 to 7. -/
theorem cmdData_usedBits_enc {w : CmdWord} (h : cmdOp w = 0b001#3) :
    cmdData (usedBits w) = (BitVec.allOnes 64).setWidth 88 := by
  simp [usedBits, h, cmdData_cmdWord]

/-- R72: `DEC` alone takes the length. -/
theorem cmdLen_usedBits_dec {w : CmdWord} (h : cmdOp w = 0b010#3) : cmdLen (usedBits w) = BitVec.allOnes 8 := by
  simp [usedBits, h, cmdLen_cmdWord]

/-- R72, R79: `DEC` of length 11 takes all eleven data bytes. -/
theorem cmdData_usedBits_dec {w : CmdWord} (h : cmdOp w = 0b010#3) (h11 : cmdLen w = 11#8) :
    cmdData (usedBits w) = BitVec.allOnes 88 := by
  simp [usedBits, h, h11, cmdData_cmdWord]

/-- R72: `FEED` takes data byte 0. -/
theorem cmdData_usedBits_feed {w : CmdWord} (h : cmdOp w = 0b011#3) :
    cmdData (usedBits w) = (BitVec.allOnes 8).setWidth 88 := by
  simp [usedBits, h, cmdData_cmdWord]

/-- Settles O4: two words that agree on the used bits have one opcode, and agree on each field that the opcode's format
takes; so they decode to one operation, but for a `DEC` of another length than 11, which looks at no byte. -/
theorem ignoredBitsDoNotMatter : Obligations.IgnoredBitsDoNotMatter := by
  intro s w w' h
  have hop : cmdOp w' = cmdOp w := by
    simpa only [cmdOp_and, cmdOp_usedBits, BitVec.and_allOnes] using (congrArg cmdOp h).symm
  have hlen : cmdLen w &&& cmdLen (usedBits w) = cmdLen w' &&& cmdLen (usedBits w) := by
    simpa only [cmdLen_and] using congrArg cmdLen h
  have hdata : cmdData w &&& cmdData (usedBits w) = cmdData w' &&& cmdData (usedBits w) := by
    simpa only [cmdData_and] using congrArg cmdData h
  rcases opcode_cases (cmdOp w) with hw | hw | hw | hw | hw | hw
  · rw [cmdData_usedBits_cksum hw] at hdata
    have hlanes : lanes (cmdData w) 9 = lanes (cmdData w') 9 :=
      lanes_congr fun i hi => extractLsb'_eq_of_and_lowMask hdata (by omega) (by decide)
    exact step_presentCommand_congr s (by rw [decode_cksum hw, decode_cksum (hop.trans hw), hlanes])
  · rw [cmdData_usedBits_enc hw] at hdata
    have hd := extractLsb'_eq_of_and_lowMask (lo := 0) (k := 32) hdata (by decide) (by decide)
    have hl := extractLsb'_eq_of_and_lowMask (lo := 32) (k := 32) hdata (by decide) (by decide)
    exact step_presentCommand_congr s (by rw [decode_enc hw, decode_enc (hop.trans hw), hd, hl])
  · rw [cmdLen_usedBits_dec hw, BitVec.and_allOnes, BitVec.and_allOnes] at hlen
    refine step_presentCommand_dec s hw (hop.trans hw) hlen fun h11 => ?_
    rwa [cmdData_usedBits_dec hw h11, BitVec.and_allOnes, BitVec.and_allOnes] at hdata
  · rw [cmdData_usedBits_feed hw] at hdata
    have hb : lane (cmdData w) 0 = lane (cmdData w') 0 :=
      extractLsb'_eq_of_and_lowMask hdata (by decide) (by decide)
    exact step_presentCommand_congr s (by rw [decode_feed hw, decode_feed (hop.trans hw), hb])
  · exact step_presentCommand_congr s ((decode_clear hw).trans (decode_clear (hop.trans hw)).symm)
  · exact step_presentCommand_congr s (by rw [decode_reserved hw, decode_reserved (hop ▸ hw), hop])

end Sys2Proof.Machine
end

section
/-! `DEC` at the port on a whole operand (30_encoding R79), and the bits of the response words (30_encoding R73 to R75). -/

namespace Sys2Proof.Machine

/-- R79: of an operand of up to 255 bytes the length and the first eleven bytes are enough: they are the whole operand
when it has eleven bytes, and are not looked at otherwise. -/
theorem parseShown_of_operand {q : List Byte} (h : q.length ≤ 255) :
    parseShown (BitVec.ofNat 8 q.length) (q.take 11) = parse q := by
  have hlen : (BitVec.ofNat 8 q.length).toNat = q.length := by
    rw [BitVec.toNat_ofNat]
    omega
  by_cases h11 : q.length = 11
  · rw [parseShown, if_pos (hlen.trans h11), List.take_of_length_le h11.le]
  · rw [parseShown, if_neg (by rwa [hlen]), parse_of_length_ne h11]

/-- Settles O30: the port's operand decides as the whole one, and a sequence of more than 255 bytes has not eleven. -/
theorem decPortAgreesWithWholeOperand : Obligations.DecPortAgreesWithWholeOperand := by
  constructor
  · intro s q hq
    rw [exec_dec, parseShown_of_operand hq, respond_eq]
  · intro q hq
    exact parse_of_length_ne (by omega)

/-- R73: a field inside `rdata` is found three bits up in the response word. -/
theorem rspWord_extract_rdata (r : Response) (lo n : Nat) :
    (rspWord r).extractLsb' (lo + 3) n = (rdataOf r).extractLsb' lo n := by
  apply BitVec.eq_of_getLsbD_eq
  intro i hi
  simp only [BitVec.getLsbD_extractLsb', rspWord_getLsbD, show ¬ lo + 3 + i < 3 by omega, if_false,
    show lo + 3 + i - 3 = lo + i by omega]

/-- R75: nothing stands above two packed little-endian fields. -/
theorem packLanes_le32_extract_above (d l : Word32) : (packLanes (le32 d ++ le32 l)).extractLsb' 64 24 = 0#24 := by
  apply BitVec.eq_of_getLsbD_eq
  intro i hi
  simp [packLanes_le32_getLsbD, show ¬ 64 + i < 32 by omega]

/-- R75: byte `i` of `rdata` where a sequence is packed in it. -/
theorem rspWord_byte {r : Response} {bs : List Byte} (hr : rdataOf r = packLanes bs) {i : Nat} (hi : i < 11) :
    (rspWord r).extractLsb' (8 * i + 3) 8 = bs.getD i 0x00#8 := by
  rw [rspWord_lane, hr, lane_packLanes bs hi]

/-- R75: the response word that carries a Reading. -/
theorem rspWord_dec_ok (r : Reading) :
    (rspWord (.dec (.ok r))).extractLsb' 0 3 = 0b000#3 ∧ (rspWord (.dec (.ok r))).extractLsb' 3 32 = r.d ∧
      (rspWord (.dec (.ok r))).extractLsb' 35 32 = r.l ∧ (rspWord (.dec (.ok r))).extractLsb' 67 24 = 0#24 :=
  ⟨rspWord_status _,
    (rspWord_extract_rdata _ 0 32).trans (packLanes_le32_extract_low r.d r.l),
    (rspWord_extract_rdata _ 32 32).trans (packLanes_le32_extract_high r.d r.l),
    (rspWord_extract_rdata _ 64 24).trans (packLanes_le32_extract_above r.d r.l)⟩

/-- Settles O48: the status field and the bytes of `CKSUM`, `ENC` and a Reading by the fields' lemmas; the words without
data are constants. -/
theorem responseWords : Obligations.ResponseWords := by
  refine ⟨fun c i hi => ⟨rspWord_status _, ?_⟩, fun f i hi => ⟨rspWord_status _, rspWord_byte rfl hi⟩, fun r => ?_,
    rfl, rfl, rfl, rfl, rfl, rfl, rfl, rfl, rfl⟩
  · rw [rspWord_byte (bs := [c]) rfl hi]
    cases i <;> simp
  · obtain ⟨hstatus, hd, hl, habove⟩ := rspWord_dec_ok r
    exact ⟨hstatus, hd, hl, habove, rfl⟩

end Sys2Proof.Machine
end

section
/-! A Frame fed byte by byte is emitted (30_encoding R83; 42_receiver R122, R125). -/

namespace Sys2Proof.Machine

/-- R110: `DEC` of the Frame of a Reading is the Reading. -/
theorem parse_serialize (d l : Word32) : parse (serialize d l) = .ok { d := d, l := l } := by
  have hfold : xorfold [startMarker, d.extractLsb' 0 8, d.extractLsb' 8 8, d.extractLsb' 16 8, d.extractLsb' 24 8,
      l.extractLsb' 0 8, l.extractLsb' 8 8, l.extractLsb' 16 8, l.extractLsb' 24 8] = xorfold (frameSpan d l) := rfl
  simp [serialize_bytes, parse, hfold, unle32_extractLsb']

/-- R125: the byte that completes the Frame of a Reading gives the Reading and empties the accumulator. -/
theorem exec_feed_completes_frame {s : State} {b : Byte} {d l : Word32} (h : s.acc ++ [b] = serialize d l) :
    exec (.feed b) s =
      .next { s with acc := [], responses := s.responses ++ [.feed (.emit { d := d, l := l })] } := by
  have hten : s.acc.length = 10 := by simpa using congrArg List.length h
  have hjudge : judge (serialize d l) (serialize d l) = (.emit { d := d, l := l }, []) := by
    rw [judge, parse_serialize]
    rfl
  rw [exec_feed_judge b hten, h, hjudge]

/-- R122: `FEEDS` up to ten bytes held only appends, with one `Pending` a byte. -/
theorem issue_feeds_fill {bs : List Byte} {s : State} (h : s.acc.length + bs.length ≤ 10) :
    issue (feeds bs) s =
      .next { s with acc := s.acc ++ bs,
                     responses := s.responses ++ List.replicate bs.length (.feed .pending) } := by
  induction bs generalizing s with
  | nil => simp [issue]
  | cons b bs ih =>
    rw [List.length_cons] at h
    rw [feeds_cons, issue_cons_next (exec_feed_fill b (by omega)), ih (by simp; omega)]
    simp [List.replicate_succ]

/-- `FEEDS` of a Frame into an empty accumulator: ten `Pending`s, then the Reading. -/
theorem issue_feeds_serialize {s : State} (h : s.acc = []) (d l : Word32) :
    issue (feeds (serialize d l)) s =
      .next { s with acc := [], responses := s.responses ++
        (List.replicate 10 (.feed .pending) ++ [.feed (.emit { d := d, l := l })]) } := by
  have hsplit : serialize d l = (frameSpan d l ++ [xorfold (frameSpan d l)]) ++ [endMarker] := by
    simp [serialize]
  have hten : (frameSpan d l ++ [xorfold (frameSpan d l)]).length = 10 := rfl
  have hfill := issue_feeds_fill (s := s) (bs := frameSpan d l ++ [xorfold (frameSpan d l)])
    (by rw [h, hten, List.length_nil])
  rw [h, List.nil_append, hten] at hfill
  rw [hsplit, feeds_append, issue_append hfill, feeds_cons, feeds_nil,
    issue_cons_next (exec_feed_completes_frame hsplit.symm), issue, List.append_assoc]

/-- Settles O56: `ENC` leaves the accumulator empty, and its Frame is then fed into it. -/
theorem loopbackEmitsReading : Obligations.LoopbackEmitsReading := by
  intro s d l h
  have henc : exec (.enc d l) s = .next { s with responses := s.responses ++ [.enc (serialize d l)] } := rfl
  have hfeeds := issue_feeds_serialize (s := { s with responses := s.responses ++ [.enc (serialize d l)] }) h d l
  rw [loopback, issue_cons_next henc, hfeeds, List.append_assoc, h]
  rfl

end Sys2Proof.Machine
end

section
/-! The algebra of the XOR checksum (00_scope R11; 40_checksum R92 to R97). -/

namespace Sys2Proof.Machine

@[simp] theorem xor8_self (a : Byte) : xor8 a a = 0x00#8 := BitVec.xor_self

@[simp] theorem xor8_zero (a : Byte) : xor8 a 0x00#8 = a := BitVec.xor_zero

theorem xor8_eq_zero_iff {a b : Byte} : xor8 a b = 0x00#8 ↔ a = b := BitVec.xor_eq_zero_iff

/-- R93: of `a`, `b` and their `xor8`, each is the `xor8` of the other two. -/
theorem xor8_rotate {a b c : Byte} (h : xor8 a b = c) : xor8 b c = a := by
  rw [← h, xor8, xor8, BitVec.xor_comm a b, ← BitVec.xor_assoc, BitVec.xor_self, BitVec.zero_xor]

theorem xor8_eq_iff {a b c : Byte} : xor8 a b = c ↔ xor8 b c = a :=
  ⟨xor8_rotate, fun h => xor8_rotate (xor8_rotate h)⟩

theorem xorfold_append (s t : List Byte) : xorfold (s ++ t) = xor8 (xorfold s) (xorfold t) := by
  rw [← foldl_xor8_start, xorfold, List.foldl_append, ← xorfold]

/-- R92: exchanging two bytes at any point of the fold changes nothing. -/
theorem xorfold_perm {s t : List Byte} (h : s.Perm t) : xorfold s = xorfold t :=
  h.foldl_eq' (fun x _ y _ z => by simp only [xor8]; ac_rfl) 0x00#8

/-- R93: a sequence with its fold appended folds to zero. -/
theorem xorfold_append_fold (s : List Byte) : xorfold (s ++ [xorfold s]) = 0x00#8 := by
  rw [xorfold_concat, xor8_self]

/-- R94: the fold takes over every bit flipped in one byte, and no other. -/
theorem xorfold_flipBit {s : List Byte} {i : Nat} (j : Nat) (h : i < s.length) :
    xorfold (flipBit s i j) = xor8 (xorfold s) (1#8 <<< j) := by
  have hs : s = s.take i ++ s[i] :: s.drop (i + 1) := by simp
  have hflip : flipBit s i j = s.take i ++ (s[i] ^^^ 1#8 <<< j) :: s.drop (i + 1) :=
    List.modify_eq_take_cons_drop h
  rw [hflip]
  conv_rhs => rw [hs]
  simp only [xorfold_append, xorfold_cons, xor8]
  ac_rfl

/-- R95: the fold of a sequence with changes folded in byte by byte. -/
theorem xorfold_zipWith {s δ : List Byte} (h : s.length = δ.length) :
    xorfold (List.zipWith xor8 s δ) = xor8 (xorfold s) (xorfold δ) := by
  induction s generalizing δ with
  | nil => simp [List.length_eq_zero_iff.mp h.symm, xorfold]
  | cons b s ih =>
    obtain ⟨c, δ, rfl⟩ := List.exists_cons_of_length_eq_add_one h.symm
    rw [List.zipWith_cons_cons, xorfold_cons, xorfold_cons, xorfold_cons, ih (Nat.succ.inj h)]
    simp only [xor8]
    ac_rfl

/-- R95: bit `j` of the fold is the parity of the bytes that have bit `j` set. -/
theorem xorfold_getLsbD (s : List Byte) (j : Nat) :
    (xorfold s).getLsbD j = (s.countP fun c => c.getLsbD j).bodd := by
  induction s with
  | nil => simp [xorfold]
  | cons b s ih =>
    rw [xorfold_cons, xor8, BitVec.getLsbD_xor, ih, List.countP_cons, Nat.bodd_add]
    cases b.getLsbD j <;> simp

theorem xorfold_eq_zero_iff (s : List Byte) :
    xorfold s = 0x00#8 ↔ ∀ j, j < 8 → (s.countP fun c => c.getLsbD j) % 2 = 0 := by
  simp [BitVec.eq_of_getLsbD_eq_iff, xorfold_getLsbD, Nat.mod_two_of_bodd]

/-- R97: the check over bytes 0 to 9 at once. -/
theorem passesCheck_iff (q : List Byte) : passesCheck q ↔ xorfold (q.take 10) = 0x00#8 := by
  have hbyte9 : xorfold q[9]?.toList = q.getD 9 0#8 := by
    rw [List.getD_eq_getElem?_getD]
    cases q[9]? <;> simp [xorfold, xor8]
  rw [passesCheck, ← xor8_eq_zero_iff, List.take_add_one (i := 9), xorfold_append, hbyte9]

/-- Settles O22, by the laws of `xor8` and of the fold above. -/
theorem checksumSelfInverse : Obligations.ChecksumSelfInverse := ⟨xor8_self, xor8_zero, xorfold_append_fold⟩

/-- Settles O24: the corrupted bytes fold to the fold of the changes, whose bits are the parities. -/
theorem undetectedCorruptions : Obligations.UndetectedCorruptions := by
  intro q δ hq hδ hpass
  have hfold : xorfold q = 0x00#8 := by
    rwa [passesCheck_iff, List.take_of_length_le hq.le] at hpass
  have hlen : (List.zipWith xor8 q δ).length = 10 := by
    rw [List.length_zipWith, hq, hδ, Nat.min_self]
  refine ⟨?_, xorfold_eq_zero_iff δ⟩
  rw [passesCheck_iff, List.take_of_length_le hlen.le, xorfold_zipWith (hq.trans hδ.symm), hfold,
    xor8_eq_zero_iff, eq_comm]

/-- Settles O25: each form moves one byte of the fold to the other side. -/
theorem checksumCheckForms : Obligations.ChecksumCheckForms := by
  intro s0 s1 s2 s3 s4 s5 s6 s7 s8 s9
  refine ⟨?_, ?_⟩
  · rw [← xor8_eq_zero_iff, ← xorfold_concat]
    rfl
  · rintro rfl
    have hlast : xorfold [s1, s2, s3, s4, s5, s6, s7, s8, s9] = xor8 (xorfold [s1, s2, s3, s4, s5, s6, s7, s8]) s9 :=
      xorfold_concat [s1, s2, s3, s4, s5, s6, s7, s8] s9
    rw [xorfold_cons, hlast]
    exact ⟨Iff.rfl, xor8_eq_iff⟩

end Sys2Proof.Machine
end

section
/-! The checksum of a valid Frame (30_encoding R64; 40_checksum R94, R96; 41_codec R103). -/

namespace Sys2Proof.Machine

/-- R96, R103: a valid Frame written out around its payload. -/
theorem validFrame_payload {f : List Byte} (h : validFrame f = true) :
    ∃ p : List Byte, p.length = 8 ∧
      f = startMarker :: (p ++ [xor8 startMarker (xorfold p), endMarker]) := by
  unfold validFrame at h
  split at h
  next s0 s1 s2 s3 s4 s5 s6 s7 s8 s9 s10 =>
    simp only [Bool.and_eq_true, beq_iff_eq] at h
    obtain ⟨⟨rfl, rfl⟩, rfl⟩ := h
    exact ⟨[s1, s2, s3, s4, s5, s6, s7, s8], rfl, by rw [xorfold_cons]; rfl⟩
  next => exact absurd h Bool.false_ne_true

theorem validFrame_length {f : List Byte} (h : validFrame f = true) : f.length = 11 := by
  obtain ⟨p, hp, rfl⟩ := validFrame_payload h
  simp [hp]

theorem validFrame_passesCheck {f : List Byte} (h : validFrame f = true) : passesCheck f := by
  obtain ⟨p, hp, rfl⟩ := validFrame_payload h
  simp [passesCheck, hp, xorfold_cons]

/-- A byte with one bit set is not zero. -/
theorem one_shiftLeft_ne_zero {j : Nat} (h : j < 8) : 1#8 <<< j ≠ 0#8 := by
  intro h0
  simpa [h] using congrArg (·.getLsbD j) h0

/-- Settles O23: the flip of one of bytes 0 to 9 leaves their fold, zero in a valid Frame, with just that bit set. -/
theorem singleBitSensitivity : Obligations.SingleBitSensitivity := by
  refine ⟨fun b i j hi _ => xorfold_flipBit j hi, fun f i j hf _ hi hj => ?_⟩
  have hlen : i < (f.take 10).length := by
    rw [List.length_take, validFrame_length hf]
    omega
  have hfold : xorfold (f.take 10) = 0x00#8 := (passesCheck_iff f).mp (validFrame_passesCheck hf)
  have htake : (flipBit f i j).take 10 = flipBit (f.take 10) i j := List.take_modify _ _ _ _
  rw [passesCheck_iff, htake, xorfold_flipBit j hlen, hfold, xor8_eq_zero_iff]
  exact (one_shiftLeft_ne_zero hj).symm

/-- Settles O28: with the payload set apart, byte 9 is its fold with the start marker's bits flipped. -/
theorem checksumFromPayload : Obligations.ChecksumFromPayload := by
  intro f hf
  obtain ⟨p, hp, rfl⟩ := validFrame_payload hf
  have hpayload : ((startMarker :: (p ++ [xor8 startMarker (xorfold p), endMarker])).drop 1).take 8 = p := by
    rw [List.drop_succ_cons, List.drop_zero, ← hp, List.take_left]
  have hbyte9 : (startMarker :: (p ++ [xor8 startMarker (xorfold p), endMarker]))[9]? =
      some (xor8 startMarker (xorfold p)) := by
    rw [List.getElem?_cons_succ, List.getElem?_append_right hp.le, hp]
    rfl
  rw [hpayload, hbyte9]
  refine ⟨rfl, fun h => ?_, fun h => ?_⟩ <;> rw [h] <;> rfl

end Sys2Proof.Machine
end

section
/-! Operation CKSUM: its command word, its result and its response word (40_checksum R90, R92). -/

namespace Sys2Proof.Machine

/-- R71: the byte lanes of a vector with a byte put below it are that byte and the vector's own lanes. -/
theorem bytes_append_byte {n : Nat} (x : BitVec n) (b : Byte) (k : Nat) :
    (List.range (k + 1)).map (fun i => (x ++ b).extractLsb' (8 * i) 8) =
      b :: (List.range k).map (fun i => x.extractLsb' (8 * i) 8) := by
  have hbyte (i : Nat) : (x ++ b).extractLsb' (8 * (i + 1)) 8 = x.extractLsb' (8 * i) 8 :=
    BitVec.extractLsb'_append_eq_of_le (Nat.le_mul_of_pos_right 8 i.succ_pos)
  rw [List.range_succ_eq_map, List.map_cons, List.map_map]
  exact congrArg₂ List.cons BitVec.extractLsb'_append_eq_right (List.map_congr_left fun i _ => hbyte i)

/-- R72: nine bytes laid out from bit 0 up are lanes 0 to 8, whatever stands above them. -/
theorem lanes_nine_bytes (hi : BitVec 16) (b0 b1 b2 b3 b4 b5 b6 b7 b8 : Byte) :
    lanes (hi ++ b8 ++ b7 ++ b6 ++ b5 ++ b4 ++ b3 ++ b2 ++ b1 ++ b0) 9 = [b0, b1, b2, b3, b4, b5, b6, b7, b8] := by
  refine (bytes_append_byte (hi ++ b8 ++ b7 ++ b6 ++ b5 ++ b4 ++ b3 ++ b2 ++ b1) b0 8).trans ?_
  simp only [bytes_append_byte, List.range_zero, List.map_nil]

/-- R74, R75: the response word of a checksum. -/
theorem rspWord_cksum (c : Byte) : rspWord (.cksum c) = c.setWidth 91 <<< 3 := by
  have hdata : rdataOf (.cksum c) = c.setWidth 88 := by simp [rdataOf, packLanes]
  apply BitVec.eq_of_getLsbD_eq
  intro i hi
  rw [rspWord_getLsbD, hdata]
  by_cases hlow : i < 3
  · simp [hlow, statusOf]
  · simp [hlow, hi, show i - 3 < 88 by omega]

/-- Settles O20: the data bytes are the word's lanes above `len`, the result is their fold, and the response word
carries it. -/
theorem cksumResult : Obligations.CksumResult := by
  intro s hi len b0 b1 b2 b3 b4 b5 b6 b7 b8
  refine ⟨?_, ?_, rspWord_cksum⟩
  · change decode (cmdWord 0b000#3 len (hi ++ b8 ++ b7 ++ b6 ++ b5 ++ b4 ++ b3 ++ b2 ++ b1 ++ b0)) = _
    rw [decode_cksum (cmdOp_cmdWord _ _ _), cmdData_cmdWord, lanes_nine_bytes]
  · have hfold : xorfold [b0, b1, b2, b3, b4, b5, b6, b7, b8] =
        b0 ^^^ b1 ^^^ b2 ^^^ b3 ^^^ b4 ^^^ b5 ^^^ b6 ^^^ b7 ^^^ b8 := by simp [xorfold, xor8]
    rw [← hfold]
    rfl

/-- Settles O21: the result of `CKSUM` is the fold, which the order does not change. -/
theorem cksumOrderIndependent : Obligations.CksumOrderIndependent := by
  intro s b b' h
  rw [← xorfold_perm h]
  rfl

end Sys2Proof.Machine
end

section
/-! Eleven bytes in the 88 bits of `data` and `rdata` (30_encoding R71 to R73), and the fold of nine. -/

namespace Sys2Proof.Machine

theorem lane_getLsbD (x : Lanes) (i : Nat) {j : Nat} (hj : j < 8) : (lane x i).getLsbD j = x.getLsbD (8 * i + j) := by
  simp [lane, hj]

/-- R71: the eleven lanes are all of the 88 bits. -/
theorem lanes_eleven_injective {x y : Lanes} (h : lanes x 11 = lanes y 11) : x = y := by
  apply BitVec.eq_of_getLsbD_eq
  intro i hi
  have hlane : lane x (i / 8) = lane y (i / 8) := List.map_inj_left.mp h _ (List.mem_range.mpr (by omega))
  have hj : i % 8 < 8 := Nat.mod_lt i (by decide)
  rw [← Nat.div_add_mod i 8, ← lane_getLsbD x _ hj, hlane, lane_getLsbD y _ hj]

/-- R71: eleven bytes laid out from bit 0 up are the lanes, in order. -/
theorem lanes_eleven_bytes (b0 b1 b2 b3 b4 b5 b6 b7 b8 b9 b10 : Byte) :
    lanes (b10 ++ b9 ++ b8 ++ b7 ++ b6 ++ b5 ++ b4 ++ b3 ++ b2 ++ b1 ++ b0) 11 =
      [b0, b1, b2, b3, b4, b5, b6, b7, b8, b9, b10] := by
  have htop : (List.range 1).map (fun i => b10.extractLsb' (8 * i) 8) = [b10] := by simp
  refine (bytes_append_byte (b10 ++ b9 ++ b8 ++ b7 ++ b6 ++ b5 ++ b4 ++ b3 ++ b2 ++ b1) b0 10).trans ?_
  simp only [bytes_append_byte, htop]

/-- R75: packed, eleven bytes stand side by side. -/
theorem packLanes_eleven_bytes (b0 b1 b2 b3 b4 b5 b6 b7 b8 b9 b10 : Byte) :
    packLanes [b0, b1, b2, b3, b4, b5, b6, b7, b8, b9, b10] =
      b10 ++ b9 ++ b8 ++ b7 ++ b6 ++ b5 ++ b4 ++ b3 ++ b2 ++ b1 ++ b0 :=
  lanes_eleven_injective ((lanes_packLanes (n := 11) rfl (Nat.le_refl 11)).trans (lanes_eleven_bytes ..).symm)

/-- R79: the first `min(n, 11)` lanes are the first `n` of the eleven. -/
theorem lanes_min_eleven (x : Lanes) (n : Nat) : lanes x (min n 11) = (lanes x 11).take n := by
  rw [lanes, lanes, ← List.map_take, List.take_range]

/-- R64: the checksum of nine bytes, written out. -/
theorem xorfold_nine_bytes (b0 b1 b2 b3 b4 b5 b6 b7 b8 : Byte) :
    xorfold [b0, b1, b2, b3, b4, b5, b6, b7, b8] = b0 ^^^ b1 ^^^ b2 ^^^ b3 ^^^ b4 ^^^ b5 ^^^ b6 ^^^ b7 ^^^ b8 := by
  simp [xorfold, xor8]

/-- R12: `unle32` as a disjunction of shifted bytes. -/
theorem unle32_eq_or (s0 s1 s2 s3 : Byte) :
    unle32 s0 s1 s2 s3 =
      (s0.setWidth 32 ||| s1.setWidth 32 <<< 8 ||| s2.setWidth 32 <<< 16 ||| s3.setWidth 32 <<< 24) := by
  apply BitVec.eq_of_getLsbD_eq
  intro i hi
  simp only [unle32_getLsbD, BitVec.getLsbD_or, BitVec.getLsbD_shiftLeft, BitVec.getLsbD_setWidth]
  interval_cases i <;> simp

end Sys2Proof.Machine
end

section
/-! The parser and the serializer, each the inverse of the other (41_codec R103 to R107, R110 to R112, R116). -/

namespace Sys2Proof.Machine

theorem exec_enc (d l : Word32) (s : State) :
    exec (.enc d l) s = .next { s with responses := s.responses ++ [.enc (serialize d l)] } := rfl

/-- R104: with stated length 11 the bytes shown decide. -/
theorem exec_dec_eleven (q : List Byte) (s : State) :
    exec (.dec 11#8 q) s = .next { s with responses := s.responses ++ [.dec (parse q)] } := rfl

/-- The response that an operation appended can be told from the next state. -/
theorem append_response_inj {s : State} {r r' : Response}
    (h : (.next { s with responses := s.responses ++ [r] } : Host.Outcome State Fault Refusal) =
      .next { s with responses := s.responses ++ [r'] }) : r = r' := by
  simpa using h

/-- R103, index by index. -/
theorem validFrame_iff (q : List Byte) :
    validFrame q = true ↔
      q.length = 11 ∧ q[0]? = some startMarker ∧ q[10]? = some endMarker ∧ q[9]? = some (xorfold (q.take 9)) := by
  constructor
  · intro h
    obtain ⟨s0, s1, s2, s3, s4, s5, s6, s7, s8, s9, s10, rfl⟩ := eleven_bytes (validFrame_length h)
    simpa [validFrame, and_assoc] using h
  · rintro ⟨hlen, h⟩
    obtain ⟨s0, s1, s2, s3, s4, s5, s6, s7, s8, s9, s10, rfl⟩ := eleven_bytes hlen
    simpa [validFrame, and_assoc] using h

theorem validFrame_iff_parse_ok (q : List Byte) : validFrame q = true ↔ ∃ r, parse q = .ok r := by
  refine ⟨fun h => ?_, fun ⟨r, hr⟩ => validFrame_of_parse_ok hr⟩
  cases hp : parse q with
  | ok r => exact ⟨r, rfl⟩
  | err e => exact absurd h (by simp [validFrame_of_parse_err hp])

/-- R110, R111: `DEC` answers with a Reading on that Reading's Frame and on nothing else. -/
theorem parse_eq_ok_iff {q : List Byte} {r : Reading} : parse q = .ok r ↔ q = serialize r.d r.l := by
  refine ⟨fun h => ?_, fun h => h ▸ parse_serialize r.d r.l⟩
  obtain ⟨s0, s1, s2, s3, s4, s5, s6, s7, s8, s9, s10, rfl⟩ := eleven_bytes (validFrame_length (validFrame_of_parse_ok h))
  rcases parse_eleven_cases (s0 := s0) (s1 := s1) (s2 := s2) (s3 := s3) (s4 := s4) (s5 := s5) (s6 := s6)
    (s7 := s7) (s8 := s8) (s9 := s9) (s10 := s10) with
    ⟨-, hp⟩ | ⟨-, -, hp⟩ | ⟨-, -, -, hp⟩ | ⟨rfl, rfl, rfl, hp⟩ <;> cases hp.symm.trans h
  simp [serialize, frameSpan]

theorem serialize_injective {d l d' l' : Word32} (h : serialize d l = serialize d' l') : d = d' ∧ l = l' := by
  have hp := parse_serialize d l
  rw [h, parse_serialize] at hp
  simpa [eq_comm] using hp

theorem validFrame_serialize (d l : Word32) : validFrame (serialize d l) = true :=
  validFrame_of_parse_ok (parse_serialize d l)

/-- R105: the start marker is the first check after the length. -/
theorem parse_of_start_ne {q : List Byte} (hlen : q.length = 11) (h0 : q[0]? ≠ some startMarker) :
    parse q = .err .badStartMarker := by
  obtain ⟨s0, s1, s2, s3, s4, s5, s6, s7, s8, s9, s10, rfl⟩ := eleven_bytes hlen
  have hs0 : s0 ≠ startMarker := by simpa using h0
  simp [parse, hs0]

/-- R105: the end marker is the second. -/
theorem parse_of_end_ne {q : List Byte} (hlen : q.length = 11) (h0 : q[0]? = some startMarker)
    (h10 : q[10]? ≠ some endMarker) : parse q = .err .badEndMarker := by
  obtain ⟨s0, s1, s2, s3, s4, s5, s6, s7, s8, s9, s10, rfl⟩ := eleven_bytes hlen
  obtain rfl : s0 = startMarker := by simpa using h0
  have hs10 : s10 ≠ endMarker := by simpa using h10
  simp [parse, hs10]

/-- R105: the checksum is the last. -/
theorem parse_of_not_passesCheck {q : List Byte} (hlen : q.length = 11) (h0 : q[0]? = some startMarker)
    (h10 : q[10]? = some endMarker) (h9 : ¬ passesCheck q) : parse q = .err .checksumMismatch := by
  obtain ⟨s0, s1, s2, s3, s4, s5, s6, s7, s8, s9, s10, rfl⟩ := eleven_bytes hlen
  obtain rfl : s0 = startMarker := by simpa using h0
  obtain rfl : s10 = endMarker := by simpa using h10
  have hs9 : xorfold [startMarker, s1, s2, s3, s4, s5, s6, s7, s8] ≠ s9 := h9
  simp [parse, hs9]

/-- R106: a result that is not the error no operation produces is one of five. -/
theorem decResult_cases {x : DecResult} (h : x ≠ .err .transportClosed) :
    (∃ r, x = .ok r) ∨ x = .err .malformedLength ∨ x = .err .badStartMarker ∨ x = .err .badEndMarker ∨
      x = .err .checksumMismatch := by
  cases x with
  | ok r => exact .inl ⟨r, rfl⟩
  | err e => cases e <;> simp at h ⊢

/-- Settles O26: `D` and `L` are the data bits 31:0 and 63:32, the Frame is `serialize` written out, and the response word
has its bytes side by side. -/
theorem encResult : Obligations.EncResult := by
  intro s hi len d l f0 f1 f2 f3 f4 f5 f6 f7 f8 f9 f10
  refine ⟨?_, ?_, ?_⟩
  · have hd : (hi ++ l ++ d).extractLsb' 0 32 = d := BitVec.extractLsb'_append_eq_right
    have hl : (hi ++ l ++ d).extractLsb' 32 32 = l :=
      (BitVec.extractLsb'_append_eq_of_le (by decide)).trans BitVec.extractLsb'_append_eq_right
    change decode (cmdWord 0b001#3 len (hi ++ l ++ d)) = _
    rw [decode_enc (cmdOp_cmdWord _ _ _), cmdData_cmdWord, hd, hl]
  · rw [exec_enc, serialize_bytes, ← xorfold_nine_bytes]
    rfl
  · change packLanes [f0, f1, f2, f3, f4, f5, f6, f7, f8, f9, f10] ++ statusOk = _
    rw [packLanes_eleven_bytes]

/-- Settles O27: the Frame is valid since `DEC` accepts it, and the Reading `DEC` finds in it is the one it was made from. -/
theorem encFramesValidAndDistinct : Obligations.EncFramesValidAndDistinct := by
  constructor
  · intro s d l
    exact ⟨serialize d l, exec_enc d l s, (validFrame_iff _).mp (validFrame_serialize d l)⟩
  · intro s d l d' l' h
    rw [exec_enc, exec_enc] at h
    exact serialize_injective (Response.enc.inj (append_response_inj h))

/-- Settles O29: the data bytes are the lanes above `len`; on eleven bytes the result is `parse` written out; any other
length fails the first check. -/
theorem decResult : Obligations.DecResult := by
  refine ⟨?_, ?_, ?_, fun q hq => parse_of_length_ne hq⟩
  · intro n b0 b1 b2 b3 b4 b5 b6 b7 b8 b9 b10
    change decode (cmdWord 0b010#3 n (b10 ++ b9 ++ b8 ++ b7 ++ b6 ++ b5 ++ b4 ++ b3 ++ b2 ++ b1 ++ b0)) = _
    rw [decode_dec (cmdOp_cmdWord _ _ _), cmdLen_cmdWord, cmdData_cmdWord, lanes_min_eleven, lanes_eleven_bytes]
  · intro s b0 b1 b2 b3 b4 b5 b6 b7 b8 b9 b10
    rw [exec_dec_eleven, ← xorfold_nine_bytes]
    rfl
  · intro s n shown hn
    rw [exec_dec, parseShown_of_len_ne shown hn, respond_eq]

/-- Settles O31, by the three forms of validity above. -/
theorem okExactlyOnValid : Obligations.OkExactlyOnValid := fun q =>
  ⟨(validFrame_iff_parse_ok q).symm.trans (validFrame_iff q), validFrame_iff_parse_ok q, validByDec_eq_validFrame q⟩

/-- Settles O32: of the results that the type has, `DEC` leaves out `TransportClosed` alone. -/
theorem decTotalFiveResults : Obligations.DecTotalFiveResults :=
  ⟨fun s n shown => ⟨parseShown n shown, exec_dec n shown s, decResult_cases (parseShown_ne_transportClosed n shown)⟩,
    fun q => decResult_cases (parse_ne_transportClosed q)⟩

/-- Settles O33: an accepted sequence is the Frame of its Reading, whose payload bytes are those of `D` and `L`; and every
Reading has its Frame. -/
theorem readingFromPayload : Obligations.ReadingFromPayload := by
  refine ⟨?_, fun r => ⟨serialize r.d r.l, parse_serialize r.d r.l⟩⟩
  intro b0 b1 b2 b3 b4 b5 b6 b7 b8 b9 b10 r h
  have hbytes := parse_eq_ok_iff.mp h
  simp only [serialize_bytes, List.cons.injEq] at hbytes
  obtain ⟨-, rfl, rfl, rfl, rfl, rfl, rfl, rfl, rfl, -⟩ := hbytes
  rw [← unle32_eq_or, ← unle32_eq_or, unle32_extractLsb', unle32_extractLsb']
  exact ⟨rfl, rfl⟩

/-- Settles O34: the Frame is `serialize d l`, and `parse` undoes `serialize`. -/
theorem encDecRoundTrip : Obligations.EncDecRoundTrip := by
  intro s t d l
  refine ⟨serialize d l, exec_enc d l s, ?_⟩
  rw [exec_dec_eleven, parse_serialize]

/-- Settles O35: the sequence accepted is the Frame of the Reading returned. -/
theorem decEncRoundTrip : Obligations.DecEncRoundTrip := by
  intro s t q r h
  rw [exec_dec_eleven] at h
  have hp : parse q = .ok r := Response.dec.inj (append_response_inj h)
  rw [exec_enc, ← parse_eq_ok_iff.mp hp]

/-- Settles O36: the two marker checks come before the checksum, the start marker's first. -/
theorem markerRejection : Obligations.MarkerRejection := by
  constructor
  · intro s q hlen h0
    rw [exec_dec_eleven, parse_of_start_ne hlen h0]
  · intro s q hlen h0 h10
    rw [exec_dec_eleven, parse_of_end_ne hlen h0 h10]

end Sys2Proof.Machine
end

section
/-! Corrupted Frames: one flipped bit, and two payload bytes exchanged (40_checksum R92, R94; 41_codec R113, R114). -/

namespace Sys2Proof.Machine

@[simp] theorem flipBit_length (q : List Byte) (i j : Nat) : (flipBit q i j).length = q.length :=
  List.length_modify _ q i

theorem flipBit_getElem?_of_ne (q : List Byte) {i k : Nat} (j : Nat) (h : i ≠ k) : (flipBit q i j)[k]? = q[k]? :=
  List.getElem?_modify_ne _ q h

/-- The byte with the flipped bit is another byte. -/
theorem flipBit_getElem?_ne {q : List Byte} {i j : Nat} {b : Byte} (hj : j < 8) (h : q[i]? = some b) :
    (flipBit q i j)[i]? ≠ some b := by
  rw [flipBit, List.getElem?_modify_eq, h]
  simpa using one_shiftLeft_ne_zero hj

/-- Bytes exchanged are the same bytes in another order. -/
theorem exchange_perm {q : List Byte} {i j : Nat} (hi : i < q.length) (hj : j < q.length) : (exchange q i j).Perm q := by
  simpa [exchange, hi, hj] using List.set_set_perm hi hj

@[simp] theorem exchange_length (q : List Byte) (i j : Nat) : (exchange q i j).length = q.length := by simp [exchange]

theorem exchange_getElem?_of_ne (q : List Byte) {i j k : Nat} (hi : i ≠ k) (hj : j ≠ k) :
    (exchange q i j)[k]? = q[k]? := by
  rw [exchange, List.getElem?_set_ne hj, List.getElem?_set_ne hi]

theorem take_exchange (q : List Byte) {i j n : Nat} (hi : i < n) (hj : j < n) :
    (exchange q i j).take n = exchange (q.take n) i j := by
  simp [exchange, List.take_set, hi, hj]

/-- R114: the payload's bytes are in the checksum's span, whose fold does not see their order. -/
theorem validFrame_exchange {f : List Byte} {i j : Nat} (hf : validFrame f = true) (hi : 1 ≤ i) (hi' : i ≤ 8)
    (hj : 1 ≤ j) (hj' : j ≤ 8) : validFrame (exchange f i j) = true := by
  obtain ⟨hlen, h0, h10, h9⟩ := (validFrame_iff f).mp hf
  have hspan : (f.take 9).length = 9 := by simp [hlen]
  have hfold : xorfold ((exchange f i j).take 9) = xorfold (f.take 9) := by
    rw [take_exchange f (by omega) (by omega)]
    exact xorfold_perm (exchange_perm (by omega) (by omega))
  have hkeep (k : Nat) (hk : k = 0 ∨ 9 ≤ k) : (exchange f i j)[k]? = f[k]? :=
    exchange_getElem?_of_ne f (by omega) (by omega)
  rw [validFrame_iff, hfold, hkeep 0 (by decide), hkeep 10 (by decide), hkeep 9 (by decide), exchange_length]
  exact ⟨hlen, h0, h10, h9⟩

/-- Settles O37: a flip in a marker fails that marker's check; a flip between them leaves both markers, and fails the
checksum's check. -/
theorem singleBitCorruptionRejected : Obligations.SingleBitCorruptionRejected := by
  intro s f i j hf hi hj
  obtain ⟨hlen, h0, h10, -⟩ := (validFrame_iff f).mp hf
  have hlen' : (flipBit f i j).length = 11 := (flipBit_length f i j).trans hlen
  rw [exec_dec_eleven]
  split_ifs with hstart hend
  · subst hstart
    rw [parse_of_start_ne hlen' (flipBit_getElem?_ne hj h0)]
  · subst hend
    have h0' := (flipBit_getElem?_of_ne f j (show 10 ≠ 0 by decide)).trans h0
    rw [parse_of_end_ne hlen' h0' (flipBit_getElem?_ne hj h10)]
  · have h0' := (flipBit_getElem?_of_ne f j hstart).trans h0
    have h10' := (flipBit_getElem?_of_ne f j hend).trans h10
    have hcheck := singleBitSensitivity.2 f i j hf (by omega) (by omega) hj
    rw [parse_of_not_passesCheck hlen' h0' h10' hcheck]

/-- Settles O38: what is left by the exchange is a valid Frame, and `DEC` accepts it. -/
theorem payloadExchangeUndetected : Obligations.PayloadExchangeUndetected := by
  intro s f i j hf hi hi' hj hj'
  obtain ⟨r, hr⟩ := (validFrame_iff_parse_ok _).mp (validFrame_exchange hf hi hi' hj hj')
  exact ⟨r, by rw [exec_dec_eleven, hr]⟩

end Sys2Proof.Machine
end

section
/-! FEED from a quiescent state: the window that the new byte completes, and what `DEC` makes of it (42_receiver R122 to
R126, R129). -/

namespace Sys2Proof.Machine

theorem judge_of_ok {w : List Byte} {r : Reading} (h : parse w = .ok r) (m : Memory) :
    judge w m = (.emit r, m.drop 11) := by
  simp [judge, h, accDrop]

theorem judge_of_err {w : List Byte} {e : FrameError} (h : parse w = .err e) (m : Memory) :
    judge w m = (.drop e, m.drop 1) := by
  simp [judge, h, accDrop]

/-- R125, R129: a window that `DEC` accepts is emitted, and its eleven bytes are all that was held. -/
theorem exec_feed_emit {s : State} {b : Byte} {r : Reading} (h : s.acc.length = 10)
    (hp : parse (s.acc ++ [b]) = .ok r) :
    exec (.feed b) s = .next { s with acc := [], responses := s.responses ++ [.feed (.emit r)] } := by
  have hempty : (s.acc ++ [b]).drop 11 = [] := List.drop_eq_nil_of_le (by simp [h])
  rw [exec_feed_judge b h, judge_of_ok hp, hempty]

/-- R124, R126, R129: a window that `DEC` rejects loses its first byte. -/
theorem exec_feed_drop {s : State} {b : Byte} {e : FrameError} (h : s.acc.length = 10)
    (hp : parse (s.acc ++ [b]) = .err e) :
    exec (.feed b) s =
      .next { s with acc := s.acc.drop 1 ++ [b], responses := s.responses ++ [.feed (.drop e)] } := by
  rw [exec_feed_judge b h, judge_of_err hp, List.drop_append_of_le_length (by omega)]

/-- The same with the first byte of the window named. -/
theorem exec_feed_drop_head {s : State} {b0 b : Byte} {tl : List Byte} {e : FrameError} (hacc : s.acc = b0 :: tl)
    (htl : tl.length = 9) (hp : parse (s.acc ++ [b]) = .err e) :
    exec (.feed b) s = .next { s with acc := tl ++ [b], responses := s.responses ++ [.feed (.drop e)] } := by
  have hten : s.acc.length = 10 := by simp [hacc, htl]
  have hx := exec_feed_drop hten hp
  rwa [hacc, List.drop_succ_cons, List.drop_zero] at hx

/-- R72: `FEED` takes the byte that stands above the `len` field. -/
theorem decode_feed_word (hi : BitVec 80) (len : BitVec 8) (b : Byte) :
    decode (hi ++ b ++ len ++ 0b011#3) = .ok (.feed b) := by
  have hlane : lane (hi ++ b) 0 = b := BitVec.extractLsb'_append_eq_right
  change decode (cmdWord 0b011#3 len (hi ++ b)) = _
  rw [decode_feed (cmdOp_cmdWord _ _ _), cmdData_cmdWord, hlane]

/-- R103: markers and a passed check make eleven bytes valid. -/
theorem validFrame_of_passesCheck {q : List Byte} (hlen : q.length = 11) (h0 : q[0]? = some startMarker)
    (h10 : q[10]? = some endMarker) (h9 : passesCheck q) : validFrame q = true := by
  have hsum : q[9]? = some (xorfold (q.take 9)) := by
    rw [h9, List.getD_eq_getElem?_getD, List.getElem?_eq_getElem (by omega), Option.getD_some]
  exact (validFrame_iff q).mpr ⟨hlen, h0, h10, hsum⟩

/-- R105: with the start marker in place, an invalid window fails at its end marker, else at its checksum. -/
theorem parse_of_false_start {q : List Byte} (hlen : q.length = 11) (h0 : q[0]? = some startMarker)
    (hbad : validFrame q = false) :
    parse q = .err (if q[10]? ≠ some endMarker then .badEndMarker else .checksumMismatch) := by
  split_ifs with h10
  · exact parse_of_end_ne hlen h0 h10
  · rw [not_not] at h10
    refine parse_of_not_passesCheck hlen h0 h10 fun h9 => ?_
    rw [validFrame_of_passesCheck hlen h0 h10 h9] at hbad
    cases hbad

/-- Settles O39: the command word's data byte 0, then the three outcomes of `FEED` with at most ten bytes held. -/
theorem feedResult : Obligations.FeedResult :=
  ⟨decode_feed_word, fun _ b h => exec_feed_fill b h, fun _ _ _ => exec_feed_emit, fun _ _ _ => exec_feed_drop⟩

/-- Settles O40: `DEC` looks at the start marker first. -/
theorem feedDropsNonMarkerHead : Obligations.FeedDropsNonMarkerHead := by
  intro s h b tl hacc htl hh
  have hp : parse (s.acc ++ [b]) = .err .badStartMarker :=
    parse_of_start_ne (by simp [hacc, htl]) (by simpa [hacc] using hh)
  exact exec_feed_drop_head hacc htl hp

/-- Settles O41: `DEC` accepts a valid window. -/
theorem feedEmitsValidWindow : Obligations.FeedEmitsValidWindow := by
  intro s b hten hvalid
  obtain ⟨r, hr⟩ := (validFrame_iff_parse_ok _).mp hvalid
  exact ⟨r, hr, exec_feed_emit hten hr⟩

/-- Settles O42: the new byte is the window's byte 10, so it decides between the two errors. -/
theorem feedDropsFalseStart : Obligations.FeedDropsFalseStart := by
  intro s b tl hacc htl hbad
  have hlast : (s.acc ++ [b])[10]? = some b := by simp [hacc, htl]
  have hp := parse_of_false_start (by simp [hacc, htl]) (by simp [hacc]) hbad
  simp only [hlast, ne_eq, Option.some.injEq] at hp
  exact exec_feed_drop_head hacc htl hp

end Sys2Proof.Machine
end

section
/-! FEED and CLEAR from every state (42_receiver R127, R128, R130, R133, R140). -/

namespace Sys2Proof.Machine

/-- R128: a window has eleven bytes, so it is not reported as malformed. -/
theorem judge_ne_drop_malformedLength {w : List Byte} (h : w.length = 11) (m : Memory) :
    (judge w m).1 ≠ .drop .malformedLength := by
  rcases judge_cases w m with ⟨r, -, hj⟩ | ⟨e, hp, hj⟩ <;> rw [hj]
  · simp
  · intro he
    obtain rfl : e = .malformedLength := Event.drop.inj he
    exact parse_ne_malformedLength h hp

/-- R140: each pass takes at least one byte of those above ten, so fuel for these is as good as any more. -/
theorem drain_fuel_congr {j k : Nat} {ev : Event} {m : Memory} (hj : m.length - 10 ≤ j) (hk : m.length - 10 ≤ k) :
    drain j ev m = drain k ev m := by
  induction j generalizing k ev m with
  | zero =>
    have hshort : m.length < 11 := by omega
    rw [drain_short hshort, drain_short hshort]
  | succ j ih =>
    by_cases hshort : m.length < 11
    · rw [drain_short hshort, drain_short hshort]
    · have hlt := judge_length_lt (m.take 11) (m := m) (by omega)
      obtain ⟨k, rfl⟩ : ∃ i, k = i + 1 := ⟨k - 1, by omega⟩
      rw [drain_window (by omega), drain_window (by omega)]
      exact ih (by omega) (by omega)

/-- R133: the capacity comes in through `AccPush` alone, which does not look at it from a quiescent state. -/
theorem feedWith_capacity_congr {cap cap' : Nat} {s : State} (b : Byte) (hc : 11 ≤ cap) (hc' : 11 ≤ cap')
    (hs : Quiescent s) : feedWith cap b s = feedWith cap' b s := by
  rw [feedWith, feedWith, accPush_of_le b hc hs, accPush_of_le b hc' hs]

/-- R130: what `CLEAR` does. -/
theorem exec_clear (s : State) :
    exec .clear s = .next { s with acc := [], responses := s.responses ++ [.clear] } := rfl

/-- Settles O43: `Pending` is no drop, and no eleven-byte window is dropped for one of these two errors. -/
theorem feedErrorKinds : Obligations.FeedErrorKinds := by
  intro s b
  obtain ⟨ev, m, hx, -, hev⟩ := feedWith_spec
    (P := fun ev => ev ≠ .drop .malformedLength ∧ ev ≠ .drop .transportClosed)
    (fun w m hw => ⟨judge_ne_drop_malformedLength hw m, judge_ne_drop_transportClosed w m⟩) (by simp) Config.accCap b s
  exact ⟨ev, m, hx, hev⟩

/-- Settles O44: every pass shortens, which bounds the fuel, and `FEED` ends with fewer than eleven bytes. -/
theorem feedAlwaysEnds : Obligations.FeedAlwaysEnds := by
  refine ⟨fun w m h => judge_length_lt w (by omega), fun m ev k hk => drain_fuel_congr hk le_rfl, fun s b => ?_⟩
  obtain ⟨ev, m, hx, hm, -⟩ := feedWith_spec (P := fun _ => True) (fun _ _ _ => trivial) trivial Config.accCap b s
  exact ⟨ev, m, hx, hm⟩

/-- Settles O45: the machine's capacity is at least 11 too. -/
theorem capacityIndependence : Obligations.CapacityIndependence := fun _ _ b hc hs =>
  ⟨accPush_of_le b hc hs, feedWith_capacity_congr b hc le_rfl hs,
    feedWith_capacity_congr b Config.eleven_le_accCap hc hs⟩

/-- Settles O47: the three low bits of the word are its opcode; the rest is the operation written out. -/
theorem clearResult : Obligations.ClearResult := by
  refine ⟨fun hi => ?_, exec_clear, rfl⟩
  have hop : cmdOp (hi ++ 0b100#3) = 0b100#3 := BitVec.extractLsb'_append_eq_right
  exact decode_clear hop

end Sys2Proof.Machine
end

section
/-! The stream function, and `FEEDS` that computes it (42_receiver R131, R132, R134). -/

namespace Sys2Proof.Machine

theorem scan_short {q : List Byte} (h : q.length < 11) : scan q = ([], q) := by
  rw [← scanFuel_of_le (Nat.le_succ _), scanFuel, if_pos h]

/-- R134, `Ok`: the eleven bytes of the window are consumed. -/
theorem scan_ok {q : List Byte} {r : Reading} (h : parse (q.take 11) = .ok r) :
    scan q = (.emit r :: (scan (q.drop 11)).1, (scan (q.drop 11)).2) := by
  have hwindow := validFrame_length (validFrame_of_parse_ok h)
  have hlong : ¬ q.length < 11 := by
    rw [List.length_take] at hwindow
    omega
  have hfuel : scanFuel q.length (q.drop 11) = scan (q.drop 11) := scanFuel_of_le (by simp)
  rw [← scanFuel_of_le (Nat.le_succ _), scanFuel, if_neg hlong, h, hfuel]

/-- R134, `Err`: the first byte alone is consumed. -/
theorem scan_err {q : List Byte} {e : FrameError} (hlen : 11 ≤ q.length) (h : parse (q.take 11) = .err e) :
    scan q = (.drop e :: (scan (q.drop 1)).1, (scan (q.drop 1)).2) := by
  have hlong : ¬ q.length < 11 := by omega
  have hfuel : scanFuel q.length (q.drop 1) = scan (q.drop 1) := scanFuel_of_le (by simp)
  rw [← scanFuel_of_le (Nat.le_succ _), scanFuel, if_neg hlong, h, hfuel]

theorem scan_append_ok {w : List Byte} {r : Reading} (h : parse w = .ok r) (t : List Byte) :
    scan (w ++ t) = (.emit r :: (scan t).1, (scan t).2) := by
  have hlen := validFrame_length (validFrame_of_parse_ok h)
  rw [scan_ok (by rwa [List.take_left' hlen]), List.drop_left' hlen]

theorem scan_append_err {w : List Byte} {e : FrameError} (hlen : w.length = 11) (h : parse w = .err e)
    (t : List Byte) : scan (w ++ t) = (.drop e :: (scan (w.drop 1 ++ t)).1, (scan (w.drop 1 ++ t)).2) := by
  rw [scan_err (by simp; omega) (by rwa [List.take_left' hlen]), List.drop_append_of_le_length (by omega)]

/-- Settles O50: the two branches of the length check, and the two answers of `DEC` on the window. -/
theorem scanEquation : Obligations.ScanEquation := by
  intro q
  split_ifs with hshort
  · exact scan_short hshort
  · cases hp : parse (q.take 11) with
    | ok r => exact scan_ok hp
    | err e => exact scan_err (by omega) hp

/-- One `FEED` of a stream and one step of the scan: a byte that completes no window is `Pending` and moves on to the held
bytes; one that completes a window takes the scan's step on it. -/
theorem exec_feed_scan {s : State} (hs : Quiescent s) (b : Byte) (t : List Byte) :
    ∃ ev m, exec (.feed b) s = .next { s with acc := m, responses := s.responses ++ [.feed ev] } ∧ m.length ≤ 10 ∧
      scan (s.acc ++ b :: t) = ([ev].filter (· != .pending) ++ (scan (m ++ t)).1, (scan (m ++ t)).2) := by
  have happ : s.acc ++ b :: t = (s.acc ++ [b]) ++ t := by simp
  rw [happ]
  rcases Nat.lt_or_eq_of_le hs with hfill | hten
  · exact ⟨.pending, s.acc ++ [b], exec_feed_fill b (by omega), by simp; omega, by simp⟩
  · have hlen : (s.acc ++ [b]).length = 11 := by simp [hten]
    cases hp : parse (s.acc ++ [b]) with
    | ok r => exact ⟨.emit r, [], exec_feed_emit hten hp, Nat.zero_le 10, scan_append_ok hp t⟩
    | err e =>
      have htail : (s.acc ++ [b]).drop 1 = s.acc.drop 1 ++ [b] := List.drop_append_of_le_length (by omega)
      refine ⟨.drop e, s.acc.drop 1 ++ [b], exec_feed_drop hten hp, by simp [hten], ?_⟩
      rw [scan_append_err hlen hp, htail]
      rfl

/-- R134: `FEEDS` from a quiescent state computes the scan, one event a byte. -/
theorem issue_feeds_scan {s : State} (hs : Quiescent s) (t : List Byte) :
    ∃ evs : List Event,
      issue (feeds t) s =
        .next { s with acc := (scan (s.acc ++ t)).2, responses := s.responses ++ evs.map .feed } ∧
      evs.length = t.length ∧ evs.filter (fun ev => ev != .pending) = (scan (s.acc ++ t)).1 := by
  induction t generalizing s with
  | nil =>
    have hscan : scan s.acc = ([], s.acc) := scan_short (Nat.lt_succ_of_le hs)
    exact ⟨[], by simp [issue, hscan], rfl, by simp [hscan]⟩
  | cons b t ih =>
    obtain ⟨ev, m, hx, hm, hscan⟩ := exec_feed_scan hs b t
    obtain ⟨evs, hissue, hlen, hevs⟩ := ih (s := { s with acc := m, responses := s.responses ++ [.feed ev] }) hm
    refine ⟨ev :: evs, ?_, by simp [hlen], ?_⟩
    · rw [feeds_cons, issue_cons_next hx, hissue, hscan]
      simp
    · rw [hscan, ← hevs, ← List.filter_append]
      rfl

/-- Settles O51, which is `issue_feeds_scan` with the state's fields named. -/
theorem feedsComputeScan : Obligations.FeedsComputeScan :=
  fun a t cs rs ha => issue_feeds_scan (s := { acc := a, commands := cs, responses := rs }) ha t

/-- Every script completes, as each of its operations does. -/
theorem issue_completes (p : List Instr) (s : State) : ∃ t, issue p s = .next t := by
  obtain ⟨t, -, ht, -, -⟩ := issue_filter_reachesAcc p (s := s) ⟨rfl, rfl⟩
  exact ⟨t, ht⟩

/-- R132: chunks fed one after another are their concatenation fed at once. -/
theorem feedChunks_eq_issue (chunks : List (List Byte)) (s : State) :
    feedChunks chunks s = issue (feeds chunks.flatten) s := by
  induction chunks generalizing s with
  | nil => rfl
  | cons c chunks ih =>
    obtain ⟨t, ht⟩ := issue_completes (feeds c) s
    rw [List.flatten_cons, feeds_append, issue_append ht, ← ih t, feedChunks, ht]

/-- Settles O52: the chunks are one stream, and that stream's events are those of its scan. -/
theorem chunkIndependence : Obligations.ChunkIndependence := by
  intro chunks s
  refine ⟨feedChunks_eq_issue chunks s, fun hs => ?_⟩
  obtain ⟨evs, hissue, -, hevs⟩ := issue_feeds_scan hs chunks.flatten
  exact ⟨evs, (feedChunks_eq_issue chunks s).trans hissue, hevs⟩

end Sys2Proof.Machine
end

section
/-! Streams with a Frame in them: garbage before it, a false start before it, a Frame in two parts, a Frame after CLEAR
(42_receiver R135 to R138, R141; 70_reset_and_hazards R174). -/

namespace Sys2Proof.Machine

/-- R135: before at least eleven more bytes, garbage none of whose windows is valid costs one `Drop` a byte. -/
theorem scan_garbage {g f : List Byte} (hf : 11 ≤ f.length)
    (hg : ∀ k, k < g.length → validFrame (((g ++ f).drop k).take 11) = false) :
    ∃ drops : List Event, scan (g ++ f) = (drops ++ (scan f).1, (scan f).2) ∧ drops.length = g.length ∧
      ∀ x ∈ drops, ∃ e, x = .drop e := by
  induction g with
  | nil => exact ⟨[], rfl, rfl, by simp⟩
  | cons b g ih =>
    obtain ⟨drops, hscan, hlen, hdrops⟩ := ih fun k hk => hg (k + 1) (Nat.succ_lt_succ hk)
    have hhead : validFrame ((b :: g ++ f).take 11) = false := hg 0 (Nat.succ_pos _)
    cases hp : parse ((b :: g ++ f).take 11) with
    | ok r =>
      rw [validFrame_of_parse_ok hp] at hhead
      cases hhead
    | err e =>
      have hstep : scan (b :: g ++ f) = (.drop e :: (scan (g ++ f)).1, (scan (g ++ f)).2) :=
        scan_err (by simp; omega) hp
      exact ⟨.drop e :: drops, by rw [hstep, hscan, List.cons_append], by simp [hlen], by simpa using hdrops⟩

theorem scan_serialize (d l : Word32) : scan (serialize d l) = ([.emit { d := d, l := l }], []) := by
  simpa [scan_short] using scan_append_ok (parse_serialize d l) []

/-- R135: garbage and then a Frame, of which the scan leaves nothing. -/
theorem scan_garbage_frame {g : List Byte} {d l : Word32}
    (hg : ∀ k, k < g.length → validFrame (((g ++ serialize d l).drop k).take 11) = false) :
    ∃ drops : List Event, scan (g ++ serialize d l) = (drops ++ [.emit { d := d, l := l }], []) ∧
      drops.length = g.length ∧ ∀ x ∈ drops, ∃ e, x = .drop e := by
  have hscan := scan_garbage (f := serialize d l) le_rfl hg
  rwa [scan_serialize] at hscan

/-- A stream that the scan consumes whole, fed into an empty accumulator, leaves it empty. -/
theorem issue_feeds_of_scan {s : State} {t : List Byte} {events : List Event} (hs : s.acc = [])
    (hscan : scan t = (events, [])) :
    ∃ evs : List Event,
      issue (feeds t) s = .next { s with responses := s.responses ++ evs.map .feed } ∧
      evs.filter (fun ev => ev != .pending) = events := by
  have hquiescent : Quiescent s := by simp [Quiescent, hs]
  obtain ⟨evs, hissue, -, hevs⟩ := issue_feeds_scan hquiescent t
  rw [hs, List.nil_append, hscan] at hissue hevs
  exact ⟨evs, by rw [hissue, hs], hevs⟩

/-- R137: the rest of a Frame whose first bytes are held gives `Pending`s and, at its last byte, the Reading. -/
theorem issue_feeds_rest_of_frame {u : State} {q : List Byte} {d l : Word32} (h : u.acc ++ q = serialize d l)
    (hu : u.acc.length ≤ 10) :
    issue (feeds q) u =
      .next { u with acc := [], responses := u.responses ++
        (List.replicate (10 - u.acc.length) (.feed .pending) ++ [.feed (.emit { d := d, l := l })]) } := by
  have hlen : u.acc.length + q.length = 11 := by simpa using congrArg List.length h
  obtain ⟨p, b, rfl⟩ : ∃ p b, q = p ++ [b] := by
    rcases List.eq_nil_or_concat' q with rfl | hq
    · rw [List.length_nil] at hlen
      omega
    · exact hq
  have hp : p.length = 10 - u.acc.length := by
    rw [List.length_append, List.length_singleton] at hlen
    omega
  rw [feeds_append, issue_append (issue_feeds_fill (by omega)), feeds_cons, feeds_nil,
    issue_cons_next (exec_feed_completes_frame (by rwa [List.append_assoc])), issue, List.append_assoc, hp]

/-- R124, R135: with `FF` at the head the window is dropped for its start marker. -/
theorem exec_feed_drop_ff {s : State} {tl : List Byte} (hacc : s.acc = 0xFF#8 :: tl) (htl : tl.length = 9) (b : Byte) :
    exec (.feed b) s =
      .next { s with acc := tl ++ [b], responses := s.responses ++ [.feed (.drop .badStartMarker)] } :=
  feedDropsNonMarkerHead s 0xFF#8 b tl hacc htl (by decide)

/-- R135, the example: with two bytes `FF` ahead the Frame's bytes 8 and 9 complete the windows headed by them, and byte
10 completes the Frame. -/
theorem issue_feeds_ff_ff_serialize {s : State} (hs : s.acc = []) (d l : Word32) :
    issue (feeds ([0xFF#8, 0xFF#8] ++ serialize d l)) s =
      .next { s with responses := s.responses ++ (List.replicate 10 (.feed .pending) ++
        [.feed (.drop .badStartMarker), .feed (.drop .badStartMarker), .feed (.emit { d := d, l := l })]) } := by
  obtain ⟨p, b8, b9, b10, hp, hframe⟩ : ∃ p b8 b9 b10, p.length = 8 ∧ serialize d l = p ++ [b8, b9, b10] :=
    ⟨(serialize d l).take 8, _, _, _, rfl, rfl⟩
  have hsplit : [0xFF#8, 0xFF#8] ++ serialize d l = (0xFF#8 :: 0xFF#8 :: p) ++ [b8, b9, b10] := by simp [hframe]
  have hten : (0xFF#8 :: 0xFF#8 :: p).length = 10 := by simp [hp]
  have hfill := issue_feeds_fill (s := s) (bs := 0xFF#8 :: 0xFF#8 :: p) (by rw [hs, hten, List.length_nil])
  rw [hs, List.nil_append, hten] at hfill
  rw [hsplit, feeds_append, issue_append hfill, feeds_cons, feeds_cons, feeds_cons, feeds_nil,
    issue_cons_next (exec_feed_drop_ff rfl (by simp [hp]) b8), List.cons_append,
    issue_cons_next (exec_feed_drop_ff rfl (by simp [hp]) b9),
    issue_cons_next (exec_feed_completes_frame (d := d) (l := l) (by simp [hframe])), issue]
  simp [hs]

/-- Settles O53: the scan of the stream in general, and the run itself for `FF FF`. -/
theorem resynchronization : Obligations.Resynchronization := by
  refine ⟨fun s g d l hs hg => ?_, fun s d l hs => issue_feeds_ff_ff_serialize hs d l⟩
  obtain ⟨drops, hscan, hlen, hdrops⟩ := scan_garbage_frame hg
  obtain ⟨evs, hissue, hevs⟩ := issue_feeds_of_scan hs hscan
  exact ⟨evs, drops, hissue, hevs, hlen, hdrops⟩

/-- R136, C9: a window that begins in the region begins with one of its bytes. -/
theorem validFrame_window_of_ne_start {z f : List Byte} {k : Nat} (hk : k < z.length)
    (hz : z[k]? ≠ some startMarker) : validFrame (((z ++ f).drop k).take 11) = false := by
  have hhead : (((z ++ f).drop k).take 11)[0]? = z[k]? := by
    rw [List.getElem?_take_of_lt (by decide), List.getElem?_drop, Nat.add_zero, List.getElem?_append_left hk]
  rw [Bool.eq_false_iff]
  intro hvalid
  obtain ⟨-, h0, -, -⟩ := (validFrame_iff _).mp hvalid
  exact hz (hhead.symm.trans h0)

/-- R136: both markers and a wrong checksum. -/
theorem parse_of_wrong_checksum {z : List Byte} (hlen : z.length = 11) (h0 : z[0]? = some startMarker)
    (h10 : z[10]? = some endMarker) (h9 : z[9]? ≠ some (xorfold (z.take 9))) : parse z = .err .checksumMismatch := by
  refine parse_of_not_passesCheck hlen h0 h10 fun hpass => h9 ?_
  obtain ⟨-, -, -, hsum⟩ := (validFrame_iff z).mp (validFrame_of_passesCheck hlen h0 h10 hpass)
  exact hsum

/-- Settles O54: the region's first window is dropped for its checksum, and its other ten bytes are garbage before the
Frame, surely so where none of them is a start marker. -/
theorem embeddedMarkerTrap : Obligations.EmbeddedMarkerTrap := by
  refine ⟨fun s z d l hs hz h0 h10 h9 hwindows => ?_, fun z d l hz hne k hk hk' => ?_⟩
  · have htail : (z.drop 1).length = 10 := by simp [hz]
    have hg : ∀ k, k < (z.drop 1).length →
        validFrame (((z.drop 1 ++ serialize d l).drop k).take 11) = false := by
      intro k hk
      rw [← List.drop_append_of_le_length (by omega), List.drop_drop]
      exact hwindows (1 + k) (by omega) (by omega)
    obtain ⟨drops, hscan, hlen, hdrops⟩ := scan_garbage_frame hg
    have hstep := scan_append_err hz (parse_of_wrong_checksum hz h0 h10 h9) (serialize d l)
    rw [hscan] at hstep
    obtain ⟨evs, hissue, hevs⟩ := issue_feeds_of_scan hs hstep
    exact ⟨evs, drops, hissue, hevs, hlen.trans htail, hdrops⟩
  · refine validFrame_window_of_ne_start (by omega) fun hstart => hne startMarker ?_ rfl
    have hdrop : (z.drop 1)[k - 1]? = some startMarker := by
      rw [List.getElem?_drop, Nat.add_sub_cancel' hk, hstart]
    exact List.mem_of_getElem? hdrop

/-- Settles O55: the first part stays below eleven bytes; the rest completes the Frame. -/
theorem partialDelivery : Obligations.PartialDelivery := by
  intro s d l k hs hk
  have hlen : ((serialize d l).take k).length = k := by simp; omega
  constructor
  · have hfill := issue_feeds_fill (s := s) (bs := (serialize d l).take k) (by rw [hs, hlen]; simpa using hk)
    rwa [hs, List.nil_append, hlen] at hfill
  · intro u hu
    have hlen' : u.acc.length = k := by rw [hu, hlen]
    have hrest := issue_feeds_rest_of_frame (u := u) (q := (serialize d l).drop k) (d := d) (l := l)
      (by rw [hu, List.take_append_drop]) (by omega)
    rwa [hlen'] at hrest

/-- Settles O57: `CLEAR` empties the accumulator, and a Frame is then fed into it. -/
theorem clearThenFrameEmitted : Obligations.ClearThenFrameEmitted := by
  intro s d l
  rw [reconnect, List.singleton_append, issue_cons_next (exec_clear s), issue_feeds_serialize rfl, List.append_assoc]
  rfl

end Sys2Proof.Machine
end

section
/-! Completion of every operation (60_exceptions R156). -/

namespace Sys2Proof.Machine

/-- Settles O9, by what an operation can do: `FEED`'s drain loop ends without a fault (42_receiver R140), `CLEAR` empties
`ACC`, and the others, `DEC` rejecting its operand among them, only respond. -/
theorem everyOperationCompletes : Obligations.EveryOperationCompletes := by
  intro i s
  rcases exec_cases i s with ⟨_, ev, m, -, -, hfeed⟩ | ⟨-, hclear⟩ | ⟨r, -, hrespond⟩
  · exact ⟨.feed ev, m, hfeed⟩
  · exact ⟨.clear, [], hclear⟩
  · exact ⟨r, s.acc, hrespond⟩

end Sys2Proof.Machine
end

section
/-! Reset, and `CLEAR` as a reset of the accumulator (70_reset_and_hazards R170, R171). -/

namespace Sys2Proof.Machine

theorem accLen_eq_zero_iff {s : State} : accLen s = 0 ↔ s.acc = [] := List.length_eq_zero_iff

/-- Settles O10: `ACC_LEN` is 0 because nothing is held, at reset and after a reset of any state. -/
theorem resetEmptiesAccumulator : Obligations.ResetEmptiesAccumulator :=
  ⟨reset_acc, accLen_eq_zero_iff.mpr reset_acc, fun s => ⟨resetBlock_acc s, accLen_eq_zero_iff.mpr (resetBlock_acc s)⟩⟩

/-- Settles O11, by what `CLEAR` does: the store it leaves is empty, as after either reset. -/
theorem resetSameAsClear : Obligations.ResetSameAsClear :=
  fun s => ⟨_, exec_clear s, (resetBlock_acc s).symm, reset_acc.symm, rfl⟩

end Sys2Proof.Machine
end

section
/-! A step and the command at the port (00_scope R7; 20_memory R52; log entries 1 and 3). -/

namespace Sys2Proof.Machine

/-- Settles O6: the port gives up its first word and keeps the rest, and a decoded word is executed. -/
theorem stepRunsDecodedOperation : Obligations.StepRunsDecodedOperation := by
  intro s w rest i hs hd
  simp only [step, takeCommand_cons hs, hd]

/-- Settles O7: the port has no word to give. -/
theorem stepWithoutCommand : Obligations.StepWithoutCommand := by
  intro s hs
  simp only [step, takeCommand_nil hs]

end Sys2Proof.Machine
end

section
/-! `MemRead` and `AccDrop` byte by byte (20_memory R41, R43; log entry 6). -/

namespace Sys2Proof.Machine

theorem accDrop_getElem? (n k : Nat) (m : Memory) : (accDrop n m)[k]? = m[n + k]? := List.getElem?_drop

/-- R41: what `MemRead` answers inside the accumulator has `n` bytes, the byte at `k` being the one at offset `addr + k`. -/
theorem memRead_slice {m : Memory} {addr n : Nat} (h : addr + n ≤ m.length) :
    ∃ w, memRead m addr n = .ok w ∧ w.length = n ∧ ∀ k, k < n → w[k]? = m[addr + k]? := by
  refine ⟨(m.drop addr).take n, memRead_of_le h, ?_, fun k hk => ?_⟩
  · rw [List.length_take, List.length_drop]
    omega
  · rw [List.getElem?_take_of_lt hk, List.getElem?_drop]

/-- Settles O18: a read is the slice or the fault as its range says, and a drop moves every offset by `n`. -/
theorem readAndDropByOffset : Obligations.ReadAndDropByOffset :=
  ⟨fun _ _ _ => memRead_slice, fun _ _ _ => memRead_of_lt, fun m n k => accDrop_getElem? n k m⟩

end Sys2Proof.Machine
end
